-- ==== Sys2Proof/Word.lean ====
section
/-! DEFINITION. The two widths of this hardware: the byte and the RX symbol. -/

namespace Sys2Proof

/-- A byte, unsigned, bit 7 most significant (R10, 00_scope.md). -/
abbrev Byte := BitVec 8

/-- An RX symbol, `err` at bit 8 and `data` at bits 7:0 (R61, 20_memory.md; R101, 30_encoding.md). -/
abbrev Symbol := BitVec 9

end Sys2Proof
end

