-- ==== Sys2Proof/Config.lean ====
section
/-! DEFINITION. The constants the source fixes (R5, 00_scope.md), the default of the one open parameter
(R6, 00_scope.md) and the one free value of the model. -/

namespace Sys2Proof.Config

/-- Start marker of a block (R5). -/
abbrev SOH : Byte := 0x01
/-- Padding marker (R5). -/
abbrev ETX : Byte := 0x03
/-- End of transmission (R5). -/
abbrev EOT : Byte := 0x04
/-- Positive response (R5, R104). -/
abbrev ACK : Byte := 0x06
/-- Negative response (R5, R104). -/
abbrev NAK : Byte := 0x15

/-- Symbols of a block, `BLOCK_LEN` (R5). -/
abbrev blockLen : Nat := 9
/-- Payload bytes of a block, `PAYLOAD_LEN` (R5). -/
abbrev payloadLen : Nat := 5

/-- `MSG_CAP`, the capacity of the Message store in bytes: `none` is unbounded, the default of D11
(92_eei_decisions.md; R72, 20_memory.md). Each state carries its own value (`State.msgCap`); this is the
one `State.reset` has. Log 4. -/
def defaultMsgCap : Option Nat := none

/-- FREE VALUE. The byte a host read returns where R74 (20_memory.md) says the byte is unspecified; the
argument is the number of the draw, so that two reads need not agree. It has no body. Log 5. -/
opaque unspecifiedByte : Nat → Byte

end Sys2Proof.Config
end

