-- ==== Sys2Proof/Syntax.lean ====
section
/-! DEFINITION. The instructions of the framer, one constructor per row of the opcode table, and the
nine-symbol frame of a block (R100, R103, 30_encoding.md). -/

namespace Sys2Proof

/-- One constructor per row of spec/opcode_table.json, in the table's order. An instruction is what ONE
step executes (R7, 00_scope.md): `block` is the step of a block's first symbol, and the eight symbols that
follow it are `bodybyte`. The nine rows of NOISE are the nine disjoint patterns of R108 (30_encoding.md), each
carrying the byte consumed where the pattern leaves a bit open. -/
inductive Instr where
  /-- EOT, symbol `0 00000100` (R130, 40_eot.md). -/
  | eot
  /-- BLOCK, symbol `0 00000001`, the start marker (R140, 41_block.md). -/
  | block
  /-- NOISE, pattern `0 1xxxxxxx` (R108, R180). -/
  | noise80 (b : Byte)
  /-- NOISE, pattern `0 01xxxxxx`. -/
  | noise40 (b : Byte)
  /-- NOISE, pattern `0 001xxxxx`. -/
  | noise20 (b : Byte)
  /-- NOISE, pattern `0 0001xxxx`. -/
  | noise10 (b : Byte)
  /-- NOISE, pattern `0 00001xxx`. -/
  | noise08 (b : Byte)
  /-- NOISE, pattern `0 0000011x`. -/
  | noise06 (b : Byte)
  /-- NOISE, pattern `0 00000101`. -/
  | noise05
  /-- NOISE, pattern `0 0000001x`. -/
  | noise02 (b : Byte)
  /-- NOISE, pattern `0 00000000`. -/
  | noise00
  /-- RXERR, symbol `1 xxxxxxxx`; the data bits are carried and ignored (R222, 60_exceptions.md; R101). -/
  | rxerr (data : Byte)
  /-- BODYBYTE, symbol `0 xxxxxxxx` at block offset 1 to 8 (R141 to R144, 41_block.md). -/
  | bodybyte (b : Byte)
  /-- ACK, TX byte 0x06 (R191, 43_response.md). -/
  | ack
  /-- NAK, TX byte 0x15 (R191, 43_response.md). -/
  | nak
deriving DecidableEq, Repr

/-- The eight operand bytes of a block, at offsets 1 to 8 (R103, 30_encoding.md). -/
structure Frame where
  /-- offset 1, the sequence byte -/
  n : Byte
  /-- offset 2, the complement -/
  c : Byte
  /-- offsets 3 to 7, the payload -/
  p0 : Byte
  p1 : Byte
  p2 : Byte
  p3 : Byte
  p4 : Byte
  /-- offset 8, the checksum -/
  k : Byte
deriving DecidableEq, Repr

/-- The five payload bytes in offset order. -/
def Frame.payload (f : Frame) : List Byte := [f.p0, f.p1, f.p2, f.p3, f.p4]

/-- The units into which the framer cuts its input (R100, R106, 30_encoding.md). -/
inductive StreamUnit where
  /-- a unit of one symbol: EOT, NOISE or RXERR -/
  | single (i : Instr)
  /-- a whole block of nine symbols -/
  | block (f : Frame)
  /-- a block that meets `Err` at offset `j` and ends there, after `j + 1` symbols -/
  | truncated (j : Nat)
deriving DecidableEq, Repr

/-- How many symbols a unit takes (R106, 30_encoding.md). -/
def StreamUnit.length : StreamUnit → Nat
  | .single _ => 1
  | .block _ => Config.blockLen
  | .truncated j => j + 1

end Sys2Proof
end

