-- ==== Sys2Proof/WellFormed.lean ====
section
/-! DEFINITION. Which terms of `Instr` an encoding can produce: the byte a NOISE row carries lies in that
row's pattern (R108, 30_encoding.md). Every other operand is a whole byte with every value legal (R110). -/

namespace Sys2Proof

/-- `b` matches the pattern given by a mask and a value on the eight data bits. -/
def inPattern (mask value b : Byte) : Bool := b &&& mask == value

/-- The byte carried by a NOISE row lies in the row's range (R108, 30_encoding.md). -/
def Instr.wf : Instr → Bool
  | .eot => true
  | .block => true
  | .noise80 b => inPattern 0x80 0x80 b
  | .noise40 b => inPattern 0xC0 0x40 b
  | .noise20 b => inPattern 0xE0 0x20 b
  | .noise10 b => inPattern 0xF0 0x10 b
  | .noise08 b => inPattern 0xF8 0x08 b
  | .noise06 b => inPattern 0xFE 0x06 b
  | .noise05 => true
  | .noise02 b => inPattern 0xFE 0x02 b
  | .noise00 => true
  | .rxerr _ => true
  | .bodybyte _ => true
  | .ack => true
  | .nak => true

/-- The byte a NOISE instruction consumes, and nothing for the others (R180, 42_noise.md). -/
def Instr.noiseByte : Instr → Option Byte
  | .noise80 b | .noise40 b | .noise20 b | .noise10 b | .noise08 b | .noise06 b | .noise02 b => some b
  | .noise05 => some 0x05
  | .noise00 => some 0x00
  | .eot | .block | .rxerr _ | .bodybyte _ | .ack | .nak => none

end Sys2Proof
end

