-- ==== Sys2Proof/Decode.lean ====
section
/-! DEFINITION. Decoding by the rows of the opcode table (R105, R107, R108, 30_encoding.md), the encoder
written from the same rows, and the cutting of a stream into units (R103, R106, 30_encoding.md). -/

namespace Sys2Proof

/-! ## The fields of a symbol -/

/-- Bit 8 of a symbol, the error tag (R101, 30_encoding.md). -/
def Symbol.err (x : Symbol) : Bool := x.getLsbD 8

/-- Bits 7:0 of a symbol (R101, 30_encoding.md). -/
def Symbol.data (x : Symbol) : Byte := x.setWidth 8

/-- The symbol `Byte(b)` (R61, 20_memory.md). -/
def byteSymbol (b : Byte) : Symbol := b.setWidth 9

/-- A symbol `Err`, with data bits that every rule ignores (R61, 20_memory.md). -/
def errSymbol (d : Byte) : Symbol := d.setWidth 9 ||| 0x100

/-! ## The table -/

/-- A row of the opcode table: which symbols it takes, and the instruction it reads from the data bits. -/
structure Row where
  mask : Symbol
  value : Symbol
  read : Byte → Instr

/-- The symbol lies in the row's pattern. -/
def Row.takes (r : Row) (x : Symbol) : Bool := x &&& r.mask == r.value

/-- What the next symbol is read as: the first symbol of an instruction, or a body byte (R105,
30_encoding.md). -/
inductive DecodeContext where
  /-- `st = AwaitingControl`, `rdy = 0` -/
  | control
  /-- `st = ReadingBlockBody`, `idx` 1 to 8 -/
  | body
deriving DecidableEq, Repr

/-- Why a word is no instruction. -/
inductive DecodeError where
  /-- no row of the context takes the symbol; it never happens (R107: the rows cover all 512 symbols) -/
  | noRow (x : Symbol)
  /-- a TX byte other than 0x06 and 0x15 (R104, 30_encoding.md) -/
  | notAResponse (b : Byte)
deriving DecidableEq, Repr

/-- The rows decoded in `AwaitingControl` (R107, R108, 30_encoding.md; spec/opcode_table.json). -/
def controlRows : List Row :=
  [ ⟨0x1FF, 0x004, fun _ => .eot⟩,
    ⟨0x1FF, 0x001, fun _ => .block⟩,
    ⟨0x180, 0x080, .noise80⟩,
    ⟨0x1C0, 0x040, .noise40⟩,
    ⟨0x1E0, 0x020, .noise20⟩,
    ⟨0x1F0, 0x010, .noise10⟩,
    ⟨0x1F8, 0x008, .noise08⟩,
    ⟨0x1FE, 0x006, .noise06⟩,
    ⟨0x1FF, 0x005, fun _ => .noise05⟩,
    ⟨0x1FE, 0x002, .noise02⟩,
    ⟨0x1FF, 0x000, fun _ => .noise00⟩,
    ⟨0x100, 0x100, .rxerr⟩ ]

/-- The rows decoded in `ReadingBlockBody` (R105, 30_encoding.md; spec/opcode_table.json). -/
def bodyRows : List Row :=
  [ ⟨0x100, 0x000, .bodybyte⟩,
    ⟨0x100, 0x100, .rxerr⟩ ]

/-- The rows of a context. -/
def rowsOf : DecodeContext → List Row
  | .control => controlRows
  | .body => bodyRows

/-- Decoding of one RX symbol (R105, 30_encoding.md). -/
def decodeRx (ctx : DecodeContext) (x : Symbol) : Except DecodeError Instr :=
  match (rowsOf ctx).find? (fun r => r.takes x) with
  | some r => .ok (r.read x.data)
  | none => .error (.noRow x)

/-- Decoding of one TX byte, format R (R104, 30_encoding.md). -/
def decodeTx (b : Byte) : Except DecodeError Instr :=
  if b = Config.ACK then .ok .ack
  else if b = Config.NAK then .ok .nak
  else .error (.notAResponse b)

/-! ## The encoder -/

/-- An encoded instruction: a symbol of the RX direction or a byte of the TX direction (R100,
30_encoding.md). -/
inductive Encoded where
  | rx (x : Symbol)
  | tx (b : Byte)
deriving DecidableEq, Repr

/-- The word of an instruction, from the opcode table's rows (R104, R107, R108, 30_encoding.md). -/
def encode : Instr → Encoded
  | .eot => .rx 0x004
  | .block => .rx 0x001
  | .noise80 b => .rx (byteSymbol b)
  | .noise40 b => .rx (byteSymbol b)
  | .noise20 b => .rx (byteSymbol b)
  | .noise10 b => .rx (byteSymbol b)
  | .noise08 b => .rx (byteSymbol b)
  | .noise06 b => .rx (byteSymbol b)
  | .noise05 => .rx 0x005
  | .noise02 b => .rx (byteSymbol b)
  | .noise00 => .rx 0x000
  | .rxerr d => .rx (errSymbol d)
  | .bodybyte b => .rx (byteSymbol b)
  | .ack => .tx 0x06
  | .nak => .tx 0x15

/-- The context in which an RX instruction is decoded; `rxerr` is decoded in both (opcode table,
`decoded_in`). -/
def Instr.context : Instr → DecodeContext
  | .bodybyte _ => .body
  | _ => .control

/-- Decoding of an encoded word in a context. -/
def decode (ctx : DecodeContext) : Encoded → Except DecodeError Instr
  | .rx x => decodeRx ctx x
  | .tx b => decodeTx b

/-! ## Blocks and units -/

/-- The eight body bytes of a frame, offsets 1 to 8 (R103, 30_encoding.md). -/
def Frame.body (f : Frame) : List Byte := [f.n, f.c, f.p0, f.p1, f.p2, f.p3, f.p4, f.k]

/-- The nine symbols of a frame, offset 0 first (R103, R75). -/
def Frame.symbols (f : Frame) : List Symbol := byteSymbol Config.SOH :: f.body.map byteSymbol

/-- The 72-bit string of a frame, offset 0 leftmost (R103, 30_encoding.md). -/
def Frame.bits (f : Frame) : BitVec 72 :=
  Config.SOH ++ f.n ++ f.c ++ f.p0 ++ f.p1 ++ f.p2 ++ f.p3 ++ f.p4 ++ f.k

/-- A frame's fields from the 72-bit string, at the bit positions of R103; nothing where the start marker
is not SOH. -/
def Frame.ofBits (w : BitVec 72) : Option Frame :=
  if w.extractLsb' 64 8 = Config.SOH then
    some
      { n := w.extractLsb' 56 8, c := w.extractLsb' 48 8, p0 := w.extractLsb' 40 8,
        p1 := w.extractLsb' 32 8, p2 := w.extractLsb' 24 8, p3 := w.extractLsb' 16 8,
        p4 := w.extractLsb' 8 8, k := w.extractLsb' 0 8 }
  else none

/-- A frame from its eight body bytes. -/
def Frame.ofBody : List Byte → Option Frame
  | [n, c, p0, p1, p2, p3, p4, k] => some ⟨n, c, p0, p1, p2, p3, p4, k⟩
  | _ => none

/-- What reading `m` body symbols from a stream gives. -/
inductive BodyRead where
  /-- all of them are bytes; the bytes, and the rest of the stream -/
  | full (bs : List Byte) (rest : List Symbol)
  /-- an `Err` came after `j` bytes; the rest of the stream after it -/
  | errAfter (j : Nat) (rest : List Symbol)
  /-- the stream ends first -/
  | short
deriving DecidableEq, Repr

/-- One more byte in front of what was read. -/
def BodyRead.push (b : Byte) : BodyRead → BodyRead
  | .full bs rest => .full (b :: bs) rest
  | .errAfter j rest => .errAfter (j + 1) rest
  | .short => .short

/-- Reads `m` body symbols; the tag is checked on every one (R63, 20_memory.md). -/
def readBody : Nat → List Symbol → BodyRead
  | 0, xs => .full [] xs
  | _ + 1, [] => .short
  | m + 1, x :: xs => if x.err then .errAfter 0 xs else (readBody m xs).push x.data

/-- The first unit of a stream and what follows it; nothing while the stream ends inside the unit
(R106, 30_encoding.md). -/
def cutUnit : List Symbol → Option (StreamUnit × List Symbol)
  | [] => none
  | x :: xs =>
    match decodeRx .control x with
    | .ok .block =>
      match readBody 8 xs with
      | .full bs rest => (Frame.ofBody bs).map (fun f => (.block f, rest))
      | .errAfter j rest => some (.truncated (j + 1), rest)
      | .short => none
    | .ok i => some (.single i, xs)
    | .error _ => none

/-! ## Words of the opcode table -/

/-- The nine symbols of an instruction laid out in the table's numbering, each symbol in a 16-bit
container: symbol `k` at bits `16 k + 8` down to `16 k`. -/
def symbolsOfWord (w : Nat) : List Symbol :=
  (List.range Config.blockLen).map (fun k => BitVec.ofNat 9 (w / 2 ^ (16 * k)))

/-- The instruction the decoder reads from a word of the opcode table. A row of 8 bits is of the TX
direction (format R); every other row is an RX symbol, decoded as the first symbol of an instruction (log 10). -/
def decodeTableWord (nbits w : Nat) : Option Instr :=
  if nbits ≤ 8 then
    if w < 256 then (decodeTx (BitVec.ofNat 8 w)).toOption else none
  else if w % 2 ^ 16 < 512 then (decodeRx .control (BitVec.ofNat 9 (w % 2 ^ 16))).toOption
  else none

end Sys2Proof
end

