-- ==== Sys2Proof/Machine/State.lean ====
section
/-! DEFINITION. Everything the spec gives the machine, as plain data (R20, R29, R36, 10_state.md; R60,
R80, 20_memory.md), the reasons a step can stop, and the state right after reset (R37, 10_state.md). -/

namespace Sys2Proof.Machine

/-- The four values of `st` (R21, 10_state.md). -/
inductive St where
  | awaitingControl
  | readingBlockBody
  | done
  | failed
deriving DecidableEq, Repr

/-- The payload staging registers `pay[0]` to `pay[4]` (R27, 10_state.md). -/
structure PayRegs where
  p0 : Byte
  p1 : Byte
  p2 : Byte
  p3 : Byte
  p4 : Byte
deriving DecidableEq, Repr

/-- The Message store: (address, byte) cells (R60 (c), R69, 20_memory.md). -/
abbrev Memory := List Host.Cell

/-- The one canonical form of the store: cell `i` has address `i`, so the addresses rise strictly from 0
without a gap, 0 to `mlen - 1` (R69, 20_memory.md). An unlisted address holds no value. -/
def Memory.wf (m : Memory) : Bool := m.map Prod.fst == List.range m.length

/-- The state of the framer and of what it is connected to.
The registers are R20's tuple; `tx` and `rxn` are the history variables of R29; `rxq` is the transport's
queue (R36 (b), R60 (a)); `rst` is the level of the reset input (R80); `msgCap` is the parameter MSG_CAP,
which no step writes (R72). -/
structure State where
  /-- sequencing state, 2 bits (R21) -/
  st : St
  /-- 1 while the readiness NAK is owed (R23) -/
  rdy : Bool
  /-- block offset of the next body byte (R22) -/
  idx : BitVec 4
  /-- sequence byte `n` (R24) -/
  seq : Byte
  /-- complement byte `c` (R25) -/
  cmp : Byte
  /-- running payload sum mod 256 (R26) -/
  sum : Byte
  /-- payload staging registers (R27) -/
  pay : PayRegs
  /-- the Message (R29) -/
  msg : Memory
  /-- bytes emitted since reset, in order (R29) -/
  tx : List Byte
  /-- symbols consumed since reset (R29) -/
  rxn : Nat
  /-- symbols arrived and not consumed, head first (R60 (a)) -/
  rxq : List Symbol
  /-- level of the reset input (R80, R260) -/
  rst : Bool
  /-- capacity of the Message store, `none` for unbounded (R72) -/
  msgCap : Option Nat
deriving DecidableEq, Repr

/-- Faults. There is none: the spec's error conditions are next states (R220 to R222, 60_exceptions.md), no
encoding traps (R111, 30_encoding.md) and no access can miss. -/
inductive Fault
deriving DecidableEq, Repr

/-- Refusals, each safe: the model stops where the spec gives no effect. -/
inductive Refusal where
  /-- An arm of `exec` that has no meaning yet, raised by `exec`. Safe. -/
  | notModelled (mnemonic : String)
  /-- Raised by `accept` when an append would exceed a finite MSG_CAP (R72, 20_memory.md: "must refuse").
  Safe. -/
  | msgCapExceeded
  /-- Raised by `step` in a state whose encoding the spec calls unreachable: `idx` 9 to 15, `idx` not 0
  outside a block, `idx` 0 inside one, `rdy = 1` outside `AwaitingControl` (U8,
  93_implementation_defined.md: "if represented, `refuse`"). Safe. -/
  | unreachableEncoding
  /-- Raised by a meaning executed in a state where the opcode table does not decode its instruction
  (`decoded_in`; R105, 30_encoding.md). No step raises it. Safe. Log 6. -/
  | notDecodedHere
  /-- Raised by `step` if no row takes a symbol, which never happens (R107, 30_encoding.md). Safe. -/
  | noTableRow
deriving DecidableEq, Repr

/-- What a step or a meaning answers. -/
abbrev Result := Host.Outcome State Fault Refusal

/-- The machine right after reset is released (R37, 10_state.md). The staging registers are unspecified in
the spec; 0x00 is the model's DESIGN CHOICE (log 1), as is the empty receive queue (log 2). -/
def State.reset : State where
  st := .awaitingControl
  rdy := true
  idx := 0
  seq := 0
  cmp := 0
  sum := 0
  pay := ⟨0, 0, 0, 0, 0⟩
  msg := []
  tx := []
  rxn := 0
  rxq := []
  rst := false
  msgCap := Config.defaultMsgCap

end Sys2Proof.Machine
end

