-- ==== Sys2Proof/Machine/Ops.lean ====
section
/-! DEFINITION. The named operations: the Message store, the two channels, the sequencing state, raising an
exception, reset, and fetching the next symbol. -/

namespace Sys2Proof.Machine

/-! ## The Message store -/

/-- `mlen`, the number of bytes held (R29, 10_state.md). -/
def Memory.mlen (m : Memory) : Nat := m.length

/-- The Message as a sequence of bytes, address 0 first (R29, R69). -/
def Memory.bytes (m : Memory) : List Byte := m.map Prod.snd

/-- The byte at an address; nothing at an address that was never appended (R69, 20_memory.md). -/
def Memory.read (m : Memory) (a : Nat) : Option Byte := m.lookup a

/-- The cells of a byte sequence placed at consecutive addresses from `a`. -/
def Memory.cellsFrom : Nat → List Byte → Memory
  | _, [] => []
  | a, b :: bs => (a, b) :: Memory.cellsFrom (a + 1) bs

/-- `MemWrite(mlen, |s|, s)` and `mlen <- mlen + |s|` (R11, 00_scope.md; R70, 20_memory.md). -/
def Memory.append (m : Memory) (bs : List Byte) : Memory := m ++ Memory.cellsFrom m.mlen bs

/-- `MsgAppend(s)` (R70, 20_memory.md). -/
def State.msgAppend (bs : List Byte) (s : State) : State := { s with msg := s.msg.append bs }

/-- Whether `n` more bytes fit a finite MSG_CAP; always when it is unbounded (R72, 20_memory.md). -/
def State.fits (s : State) (n : Nat) : Bool :=
  match s.msgCap with
  | none => true
  | some cap => s.msg.mlen + n ≤ cap

/-- The Message may be read by the host: the session has ended (R74, 20_memory.md). -/
def State.readable (s : State) : Bool := s.st = .done || s.st = .failed

/-- `MemRead(a, 1)`, the host's read (R74, 20_memory.md). Before termination, and at an address past the
Message, the byte is the free value number `draw` (U5, 93_implementation_defined.md; log 5). It changes no
state. -/
def memRead (draw a : Nat) (s : State) : Byte :=
  if s.readable then (s.msg.read a).getD (Config.unspecifiedByte draw)
  else Config.unspecifiedByte draw

/-! ## The channels -/

/-- `TxWrite(b)` (R66, 20_memory.md). -/
def State.txWrite (b : Byte) (s : State) : State := { s with tx := s.tx ++ [b] }

/-- The effect of `RxRead()` on a queue that is not empty: the head is gone, `rxn` counts it (R62,
20_memory.md). -/
def State.popRx (s : State) : State := { s with rxq := s.rxq.tail, rxn := s.rxn + 1 }

/-- What a symbol means to the framer (R61, 20_memory.md). -/
inductive RxItem where
  | byte (b : Byte)
  | err
deriving DecidableEq, Repr

/-- The tagged value of a symbol; the data of an `Err` is dropped (R61, 20_memory.md). -/
def rxItem (x : Symbol) : RxItem := if x.err then .err else .byte x.data

/-! ## Registers -/

/-- `st <- t; idx <- i` (R21, R22, 10_state.md). -/
def State.goto (t : St) (i : BitVec 4) (s : State) : State := { s with st := t, idx := i }

/-- `rdy <- 0` (R23, 10_state.md). -/
def State.clearRdy (s : State) : State := { s with rdy := false }

/-- `seq <- b` (R24, 10_state.md). -/
def State.setSeq (b : Byte) (s : State) : State := { s with seq := b }

/-- `cmp <- b` (R25, 10_state.md). -/
def State.setCmp (b : Byte) (s : State) : State := { s with cmp := b }

/-- `sum <- b` (R26, 10_state.md). -/
def State.setSum (b : Byte) (s : State) : State := { s with sum := b }

/-- `pay[i]` (R27, 10_state.md). -/
def PayRegs.get (p : PayRegs) : Fin 5 → Byte
  | 0 => p.p0
  | 1 => p.p1
  | 2 => p.p2
  | 3 => p.p3
  | 4 => p.p4

/-- `pay[i] <- b` on the register file (R27, 10_state.md). -/
def PayRegs.set (p : PayRegs) (b : Byte) : Fin 5 → PayRegs
  | 0 => { p with p0 := b }
  | 1 => { p with p1 := b }
  | 2 => { p with p2 := b }
  | 3 => { p with p3 := b }
  | 4 => { p with p4 := b }

/-- The five payload bytes in offset order (R147, 41_block.md). -/
def PayRegs.toList (p : PayRegs) : List Byte := [p.p0, p.p1, p.p2, p.p3, p.p4]

/-- `pay[i] <- b` (R27, 10_state.md). -/
def State.setPay (i : Fin 5) (b : Byte) (s : State) : State := { s with pay := s.pay.set b i }

/-! ## The sequencing state -/

/-- The encodings of `(st, rdy, idx)` that the spec calls reachable (R22, R23, R30 (a), (b), 10_state.md;
U8, 93_implementation_defined.md). -/
def State.seqOk (s : State) : Bool :=
  match s.st with
  | .awaitingControl => s.idx = 0
  | .readingBlockBody => !s.rdy && 1 ≤ s.idx && s.idx ≤ 8
  | .done => !s.rdy && s.idx = 0
  | .failed => !s.rdy && s.idx = 0

/-- `decoded_in` of EOT, BLOCK and NOISE: `st = AwaitingControl`, `rdy = 0` (opcode table; R102,
30_encoding.md). -/
def State.atControl (s : State) : Bool := !s.rdy && s.st = .awaitingControl && s.idx = 0

/-- `decoded_in` of BODYBYTE: `st = ReadingBlockBody`, `idx` 1 to 8 (opcode table; R105, 30_encoding.md). -/
def State.inBody (s : State) : Bool := !s.rdy && s.st = .readingBlockBody && 1 ≤ s.idx && s.idx ≤ 8

/-- Runs a meaning where the opcode table decodes its instruction, and refuses it elsewhere (log 6). -/
def whenDecoded (here : Bool) (r : Result) : Result := if here then r else .refused .notDecodedHere

/-! ## Exceptions -/

/-- The conditions a step can raise (R210, 60_exceptions.md). -/
inductive Condition where
  | framingError
  | checksumError
  | ioFailure
deriving DecidableEq, Repr

/-- `raise X` (R11, 00_scope.md): the whole effect of a condition, in the step that raises it. The two
recoverable ones emit NAK and are back in `AwaitingControl` at once, which is their return (R220, R221, R236,
60_exceptions.md; R149, 41_block.md); `IoFailure` ends the session (R222). Nothing is saved (R235). -/
def raise : Condition → State → State
  | .framingError, s => (s.txWrite Config.NAK).goto .awaitingControl 0
  | .checksumError, s => (s.txWrite Config.NAK).goto .awaitingControl 0
  | .ioFailure, s => s.goto .failed 0

/-! ## Reset -/

/-- A clock edge with `rst = 1` (R260, 70_reset_and_hazards.md): the reset state of R37, the staging registers
and the RX queue (R262) kept. -/
def State.takeReset (s : State) : State :=
  { s with st := .awaitingControl, rdy := true, idx := 0, msg := [], tx := [], rxn := 0 }

/-! ## Fetching the next symbol -/

/-- The context in which the next symbol is decoded; nothing in the terminal states (R105,
30_encoding.md). -/
def State.context (s : State) : Option DecodeContext :=
  match s.st with
  | .awaitingControl => some .control
  | .readingBlockBody => some .body
  | .done => none
  | .failed => none

/-- What fetching gives. -/
inductive Fetched where
  /-- no symbol is consumed: the queue is empty, or the state is terminal (R62, R132, R224) -/
  | hold
  /-- the instruction of the head symbol -/
  | instr (i : Instr)
  /-- no row takes the head symbol -/
  | noRow
deriving DecidableEq, Repr

/-- The instruction the framer reads next (R62, 20_memory.md; R105, 30_encoding.md). -/
def State.fetch (s : State) : Fetched :=
  match s.context, s.rxq with
  | none, _ => .hold
  | some _, [] => .hold
  | some ctx, x :: _ =>
    match decodeRx ctx x with
    | .ok i => .instr i
    | .error _ => .noRow

/-- Lays a word of the opcode table where the next step reads it (log 10). An RX word is put at the head of
the queue of a framer that is out of reset, past its readiness NAK and awaiting control. No step reads a TX byte:
for NAK the state is one whose next step emits NAK of its own accord (`Ready`, R196), for ACK one whose
next step emits ACK (an EOT waiting, R130). -/
def State.placeWord (nbits w : Nat) (s : State) : State :=
  let s' := { s with rst := false, rdy := false, st := .awaitingControl, idx := 0 }
  if 8 < nbits then { s' with rxq := symbolsOfWord w ++ s.rxq }
  else if w = Config.NAK.toNat then { s' with rdy := true }
  else if w = Config.ACK.toNat then { s' with rxq := byteSymbol Config.EOT :: s.rxq }
  else s

end Sys2Proof.Machine
end

