-- ==== Sys2Proof/Machine/Operands.lean ====
section
/-! DEFINITION. The operand forms: which field of a block the byte at an offset is, and its capture into the
staging registers (R103, R110, 30_encoding.md; R140 to R143, 41_block.md). -/

namespace Sys2Proof.Machine

/-- The fields of a block after the start marker (R103, 30_encoding.md). -/
inductive BodyField where
  /-- offset 1 -/
  | sequence
  /-- offset 2 -/
  | complement
  /-- offsets 3 to 7 -/
  | payload (i : Fin 5)
  /-- offset 8 -/
  | checksum
deriving DecidableEq, Repr

/-- The field at a block offset; none at 0 and 9 to 15 (R103, 30_encoding.md; R22, 10_state.md). -/
def fieldAt (idx : BitVec 4) : Option BodyField :=
  match idx.toNat with
  | 1 => some .sequence
  | 2 => some .complement
  | 3 => some (.payload 0)
  | 4 => some (.payload 1)
  | 5 => some (.payload 2)
  | 6 => some (.payload 3)
  | 7 => some (.payload 4)
  | 8 => some .checksum
  | _ => none

/-- The checksum adder: `zext_9(sum) + zext_9(b)`, its bit 8 dropped (R110, 30_encoding.md; R151 (a),
41_block.md). -/
def addMod256 (sum b : Byte) : Byte := (sum.setWidth 9 + b.setWidth 9).setWidth 8

/-- Offset 0 (R140, 41_block.md). -/
def State.startBlock (s : State) : State := (s.goto .readingBlockBody 1).setSum 0

/-- `idx <- idx + 1` within a block (R22, 10_state.md). -/
def State.nextOffset (s : State) : State := s.goto .readingBlockBody (s.idx + 1)

/-- Offset 1: `seq <- b` (R141, 41_block.md). -/
def State.captureSeq (b : Byte) (s : State) : State := (s.setSeq b).nextOffset

/-- Offset 2: `cmp <- b` (R142, 41_block.md). -/
def State.captureCmp (b : Byte) (s : State) : State := (s.setCmp b).nextOffset

/-- Offsets 3 to 7: `pay[i] <- b`, `sum <- (sum + b) mod 256` (R143, 41_block.md). -/
def State.capturePay (i : Fin 5) (b : Byte) (s : State) : State :=
  ((s.setPay i b).setSum (addMod256 s.sum b)).nextOffset

end Sys2Proof.Machine
end

