-- ==== Sys2Proof/Machine/Flags.lean ====
section
/-! DEFINITION. The two checks of a block, the padding filter, the status flags and the outcome (R145 to
R147, 41_block.md; R32 to R34, 10_state.md). All are functions of the state, none is storage. -/

namespace Sys2Proof.Machine

/-- The complement check of two bytes: `c == 255 - n` (R145, 41_block.md). -/
def complementOk (n c : Byte) : Bool := c == 255 - n

/-- The sum of the five payload bytes mod 256 (R146, 41_block.md). -/
def payloadSum (p0 p1 p2 p3 p4 : Byte) : Byte :=
  addMod256 (addMod256 (addMod256 (addMod256 (addMod256 0 p0) p1) p2) p3) p4

/-- `cmp_ok` of R144 (41_block.md). -/
def State.cmpOk (s : State) : Bool := complementOk s.seq s.cmp

/-- `sum_ok` of R144 (41_block.md): `k == sum`. -/
def State.sumOk (k : Byte) (s : State) : Bool := k == s.sum

/-- The padding-byte filter: every 0x03 removed, the rest in order (R147, 41_block.md). -/
def stripPadding (bs : List Byte) : List Byte := bs.filter (fun x => x != Config.ETX)

/-- `done` (R32, 10_state.md). -/
def State.doneFlag (s : State) : Bool := s.st = .done

/-- `fail` (R32, 10_state.md). -/
def State.failFlag (s : State) : Bool := s.st = .failed

/-- The outcomes (R33, 10_state.md). -/
inductive SessionOutcome where
  | running
  | normalTermination
  | ioFailure
deriving DecidableEq, Repr

/-- The outcome of a state (R33, 10_state.md). -/
def State.outcome (s : State) : SessionOutcome :=
  match s.st with
  | .awaitingControl => .running
  | .readingBlockBody => .running
  | .done => .normalTermination
  | .failed => .ioFailure

/-- The two-bit code of an outcome (R33, 10_state.md; R210, 60_exceptions.md). -/
def SessionOutcome.code : SessionOutcome → BitVec 2
  | .running => 0b00
  | .normalTermination => 0b01
  | .ioFailure => 0b10

/-- `STATUS`, bit 0 `done`, bit 1 `fail` (R34, 10_state.md). -/
def State.status (s : State) : BitVec 2 := BitVec.ofBool s.failFlag ++ BitVec.ofBool s.doneFlag

/-- `MSGLEN` (R34, 10_state.md). -/
def State.msgLen (s : State) : Nat := s.msg.mlen

/-- The encoding of `st` (R21, 10_state.md). -/
def St.code : St → BitVec 2
  | .awaitingControl => 0b00
  | .readingBlockBody => 0b01
  | .done => 0b10
  | .failed => 0b11

/-- What a claim may speak of (R9, 00_scope.md). -/
structure Observation where
  tx : List Byte
  msg : List Byte
  outcome : SessionOutcome
  rxn : Nat
deriving DecidableEq, Repr

/-- The observation of a state (R9, 00_scope.md). -/
def State.observe (s : State) : Observation :=
  { tx := s.tx, msg := s.msg.bytes, outcome := s.outcome, rxn := s.rxn }

end Sys2Proof.Machine
end

