-- ==== Sys2Proof/Machine/Block.lean ====
section
/-! DEFINITION. BLOCK and its body bytes, symbol by symbol (R140 to R149, 41_block.md). -/

namespace Sys2Proof.Machine

/-- BLOCK, its first symbol: `BlockStart` (R140, 41_block.md). -/
def execBlock (s : State) : Result := whenDecoded s.atControl (.next s.startBlock)

/-- Both checks passed: append the filtered payload, emit ACK (R148, 41_block.md). An append that a finite
MSG_CAP cannot hold is refused (R72, 20_memory.md). -/
def accept (s : State) : Result :=
  if s.fits (stripPadding s.pay.toList).length then
    .next (((s.msgAppend (stripPadding s.pay.toList)).txWrite Config.ACK).goto .awaitingControl 0)
  else .refused .msgCapExceeded

/-- The verdict of the offset-8 step: complement first, then checksum (R144, 41_block.md). -/
def verdict (k : Byte) (s : State) : Result :=
  if s.cmpOk = false then .next (raise .framingError s)
  else if s.sumOk k = false then .next (raise .checksumError s)
  else accept s

/-- BODYBYTE: the byte at block offset `idx` (R141 to R144, 41_block.md). -/
def execBodybyte (b : Byte) (s : State) : Result :=
  whenDecoded s.inBody
    (match fieldAt s.idx with
    | some .sequence => .next (s.captureSeq b)
    | some .complement => .next (s.captureCmp b)
    | some (.payload i) => .next (s.capturePay i b)
    | some .checksum => verdict b s
    | none => .refused .notDecodedHere)

end Sys2Proof.Machine
end

