-- ==== Sys2Proof/Machine/Eot.lean ====
section
/-! DEFINITION. EOT (R130, 40_eot.md). -/

namespace Sys2Proof.Machine

/-- EOT: emit ACK, `st <- Done`, `idx <- 0` (R130, 40_eot.md). -/
def execEot (s : State) : Result :=
  whenDecoded s.atControl (.next ((s.txWrite Config.ACK).goto .done 0))

end Sys2Proof.Machine
end

