-- ==== Sys2Proof/Machine/Errors.lean ====
section
/-! DEFINITION. RXERR (R222, 60_exceptions.md). -/

namespace Sys2Proof.Machine

/-- RXERR: raise `IoFailure`; the data bits are ignored (R222, 60_exceptions.md). -/
def execRxerr (_data : Byte) (s : State) : Result :=
  whenDecoded (s.atControl || s.inBody) (.next (raise .ioFailure s))

end Sys2Proof.Machine
end

