-- ==== Sys2Proof/Machine/Noise.lean ====
section
/-! DEFINITION. NOISE: one meaning per pattern of R108 (30_encoding.md), all of them R180 (42_noise.md). -/

namespace Sys2Proof.Machine

/-- NOISE writes no register and emits nothing; the symbol is gone because it was read (R180,
42_noise.md). -/
def discardByte (s : State) : Result := whenDecoded s.atControl (.next s)

/-- NOISE, bytes 0x80 to 0xFF (R108, R180). -/
def execNoise80 (_b : Byte) (s : State) : Result := discardByte s

/-- NOISE, bytes 0x40 to 0x7F (R108, R180). -/
def execNoise40 (_b : Byte) (s : State) : Result := discardByte s

/-- NOISE, bytes 0x20 to 0x3F (R108, R180). -/
def execNoise20 (_b : Byte) (s : State) : Result := discardByte s

/-- NOISE, bytes 0x10 to 0x1F (R108, R180). -/
def execNoise10 (_b : Byte) (s : State) : Result := discardByte s

/-- NOISE, bytes 0x08 to 0x0F (R108, R180). -/
def execNoise08 (_b : Byte) (s : State) : Result := discardByte s

/-- NOISE, bytes 0x06 and 0x07 (R108, R180). -/
def execNoise06 (_b : Byte) (s : State) : Result := discardByte s

/-- NOISE, bytes 0x05 (R108, R180). -/
def execNoise05 (s : State) : Result := discardByte s

/-- NOISE, bytes 0x02 and 0x03 (R108, R180). -/
def execNoise02 (_b : Byte) (s : State) : Result := discardByte s

/-- NOISE, bytes 0x00 (R108, R180). -/
def execNoise00 (s : State) : Result := discardByte s

end Sys2Proof.Machine
end

