-- ==== Sys2Proof/Machine/Response.lean ====
section
/-! DEFINITION. The ACK/NAK generator (R190 to R197, 43_response.md). -/

namespace Sys2Proof.Machine

/-- ACK: `TxWrite(0x06)` (R191, 43_response.md). -/
def execAck (s : State) : Result := .next (s.txWrite Config.ACK)

/-- NAK: `TxWrite(0x15)` (R191, 43_response.md). -/
def execNak (s : State) : Result := .next (s.txWrite Config.NAK)

/-- The `Ready` step: the readiness NAK, once after reset (R196, 43_response.md). It reads no symbol. -/
def ready (s : State) : State := (s.txWrite Config.NAK).clearRdy

end Sys2Proof.Machine
end

