-- ==== Sys2Proof/Machine/Dispatch.lean ====
section
/-! DEFINITION. One arm per instruction, each one call of its meaning. -/

namespace Sys2Proof.Machine

/-- The meaning of an instruction, after its symbol has been read. -/
def exec (i : Instr) (s : State) : Host.Outcome State Fault Refusal :=
  match i with
  | .eot => Sys2Proof.Machine.execEot s
  | .block => Sys2Proof.Machine.execBlock s
  | .noise80 b => Sys2Proof.Machine.execNoise80 b s
  | .noise40 b => Sys2Proof.Machine.execNoise40 b s
  | .noise20 b => Sys2Proof.Machine.execNoise20 b s
  | .noise10 b => Sys2Proof.Machine.execNoise10 b s
  | .noise08 b => Sys2Proof.Machine.execNoise08 b s
  | .noise06 b => Sys2Proof.Machine.execNoise06 b s
  | .noise05 => Sys2Proof.Machine.execNoise05 s
  | .noise02 b => Sys2Proof.Machine.execNoise02 b s
  | .noise00 => Sys2Proof.Machine.execNoise00 s
  | .rxerr d => Sys2Proof.Machine.execRxerr d s
  | .bodybyte b => Sys2Proof.Machine.execBodybyte b s
  | .ack => Sys2Proof.Machine.execAck s
  | .nak => Sys2Proof.Machine.execNak s

end Sys2Proof.Machine
end

