-- ==== Sys2Proof/Machine/Step.lean ====
section
/-! DEFINITION. One step of the machine (R7, 00_scope.md; R31, 10_state.md). -/

namespace Sys2Proof.Machine

/-- One step. Reset precedes everything (R230 (d), 60_exceptions.md); encodings the spec calls unreachable are
refused (U8); the readiness NAK precedes every symbol (R196, 43_response.md; R230 (c)); otherwise the head symbol
is consumed and its instruction executed (R62, 20_memory.md). A framer that has no step, waiting or terminal, holds its
state (R62, R132, R224, R249; log 8). -/
def step (s : State) : Host.Outcome State Fault Refusal :=
  if s.rst then .next s.takeReset
  else if s.seqOk = false then .refused .unreachableEncoding
  else if s.rdy then .next (ready s)
  else
    match s.fetch with
    | .hold => .next s
    | .instr i => exec i s.popRx
    | .noRow => .refused .noTableRow

/-- `s` with a word of the opcode table where the next step reads its instruction (log 10). -/
def State.withFetchWord (s : State) (nbits w : Nat) : State := s.placeWord nbits w

end Sys2Proof.Machine
end

