-- ==== Sys2Proof/Machine/Composite.lean ====
section
/-! DEFINITION. The source's own level of description: a whole unit of the stream as one step (R150,
41_block.md; R106, 30_encoding.md). The machine of Step.lean refines it. -/

namespace Sys2Proof.Machine

/-- The checks of a whole block (R145, R146, 41_block.md). -/
def frameComplementOk (f : Frame) : Bool := complementOk f.n f.c

/-- The checksum byte equals the payload's sum mod 256 (R146, 41_block.md). -/
def frameSumOk (f : Frame) : Bool := f.k == payloadSum f.p0 f.p1 f.p2 f.p3 f.p4

/-- "a block is valid iff complement check AND checksum check both pass" (Glossary, 00_scope.md). -/
def frameValid (f : Frame) : Bool := frameComplementOk f && frameSumOk f

/-- The staging registers as the nine steps of a block leave them (R28, 10_state.md). -/
def State.stageFrame (f : Frame) (s : State) : State :=
  { s with seq := f.n, cmp := f.c, sum := payloadSum f.p0 f.p1 f.p2 f.p3 f.p4,
           pay := ⟨f.p0, f.p1, f.p2, f.p3, f.p4⟩ }

/-- The queue after a unit of `n` symbols was consumed. -/
def State.consume (n : Nat) (s : State) : State := { s with rxq := s.rxq.drop n, rxn := s.rxn + n }

/-- BLOCK as one instruction (R150, 41_block.md): one verdict, one response, `rxn + 9`. -/
def blockWhole (f : Frame) (s : State) : Result :=
  let t := ((s.stageFrame f).consume Config.blockLen).goto .awaitingControl 0
  if frameComplementOk f = false then .next (t.txWrite Config.NAK)
  else if frameSumOk f = false then .next (t.txWrite Config.NAK)
  else if s.fits (stripPadding f.payload).length then
    .next ((t.msgAppend (stripPadding f.payload)).txWrite Config.ACK)
  else .refused .msgCapExceeded

/-- A unit of the stream as one step. A block cut short by `Err` ends in `IoFailure` with nothing emitted and
the Message unchanged (R222 (a), 60_exceptions.md). -/
def runUnit (u : StreamUnit) (s : State) : Result :=
  match u with
  | .single i => exec i (s.consume 1)
  | .block f => blockWhole f s
  | .truncated j => .next (raise .ioFailure (s.consume (j + 1)))

end Sys2Proof.Machine
end

