-- ==== Sys2Proof/Machine/Env.lean ====
section
/-! DEFINITION. What the parties around the framer can do to it (R8, 00_scope.md; R245, 60_exceptions.md). -/

namespace Sys2Proof.Machine

/-- The RX environment appends a symbol to the queue (R8 (b), 00_scope.md; R60 (a), 20_memory.md). -/
def State.arrive (x : Symbol) (s : State) : State := { s with rxq := s.rxq ++ [x] }

/-- The host drives the reset input (R260, R261, 70_reset_and_hazards.md). -/
def State.setRst (level : Bool) (s : State) : State := { s with rst := level }

/-- Anything that can happen next: a step of the framer, an arriving symbol, a change of `rst`. -/
inductive Event where
  | tick
  | arrive (x : Symbol)
  | setRst (level : Bool)
deriving DecidableEq, Repr

/-- One event. -/
def applyEvent : Event → State → Result
  | .tick, s => step s
  | .arrive x, s => .next (s.arrive x)
  | .setRst level, s => .next (s.setRst level)

/-- A sequence of events in any interleaving, stopping at the first refusal. -/
def runEvents : List Event → State → Result
  | [], s => .next s
  | e :: es, s =>
    match applyEvent e s with
    | .next t => runEvents es t
    | .fault r => .fault r
    | .refused r => .refused r

/-- `k` steps of the framer with nothing else happening, stopping at the first refusal. -/
def runSteps : Nat → State → Result
  | 0, s => .next s
  | k + 1, s =>
    match step s with
    | .next t => runSteps k t
    | .fault r => .fault r
    | .refused r => .refused r

/-- The symbols that arrive in a sequence of events, in order. -/
def arrivals : List Event → List Symbol
  | [] => []
  | .tick :: es => arrivals es
  | .arrive x :: es => x :: arrivals es
  | .setRst _ :: es => arrivals es

/-- The event is no change of the reset input. -/
def Event.notReset : Event → Bool
  | .tick => true
  | .arrive _ => true
  | .setRst _ => false

end Sys2Proof.Machine
end

