-- ==== Sys2Proof/Machine/Label.lean ====
section
/-! DEFINITION. Step labels (R12, 00_scope.md): which rule fires. They are not state; claims name them. -/

namespace Sys2Proof.Machine

/-- The closed list of labels (R12, 00_scope.md). -/
inductive Label where
  | ready
  | eot
  | blockStart
  | bodyByte
  | accept
  | framingError
  | checksumError
  | discard
  | ioFailure
deriving DecidableEq, Repr

/-- The label of an offset-8 step that consumes `k` (R144, 41_block.md). -/
def verdictLabel (k : Byte) (s : State) : Label :=
  if s.cmpOk = false then .framingError
  else if s.sumOk k = false then .checksumError
  else .accept

/-- The label of the step that executes an instruction in `s`; none for the TX encodings, which no step
executes. -/
def instrLabel (s : State) : Instr → Option Label
  | .eot => some .eot
  | .block => some .blockStart
  | .noise80 _ | .noise40 _ | .noise20 _ | .noise10 _ | .noise08 _ | .noise06 _ | .noise05 | .noise02 _
  | .noise00 => some .discard
  | .rxerr _ => some .ioFailure
  | .bodybyte k => if s.idx = 8 then some (verdictLabel k s) else some .bodyByte
  | .ack | .nak => none

/-- The label of the step enabled in `s`; none while the framer has no step, and for a reset edge. -/
def stepLabel (s : State) : Option Label :=
  if s.rst || !s.seqOk then none
  else if s.rdy then some .ready
  else
    match s.fetch with
    | .hold => none
    | .instr i => instrLabel s i
    | .noRow => none

/-- The bytes each kind of step emits: the four situations of R190 (43_response.md), and nothing else
(R197). -/
def Label.response : Label → List Byte
  | .ready => [Config.NAK]
  | .eot => [Config.ACK]
  | .accept => [Config.ACK]
  | .framingError => [Config.NAK]
  | .checksumError => [Config.NAK]
  | .blockStart => []
  | .bodyByte => []
  | .discard => []
  | .ioFailure => []

/-- The label of an event: that of the step for a tick, none for an arriving symbol and for the reset input. -/
def eventLabel (s : State) : Event → Option Label
  | .tick => stepLabel s
  | .arrive _ => none
  | .setRst _ => none

/-- The labels of the steps taken in a sequence of events from `s`, in order. -/
def labelTrace : List Event → State → List Label
  | [], _ => []
  | e :: es, s =>
    match applyEvent e s with
    | .next t => (eventLabel s e).toList ++ labelTrace es t
    | .fault _ => []
    | .refused _ => []

end Sys2Proof.Machine
end

