-- ==== Sys2Proof/Machine/Ports.lean ====
section
/-! DEFINITION. The port list and the clocked binding (R80, R81, 20_memory.md). The transition system of
Step.lean governs (R7, 00_scope.md); a clock edge is one step of it. -/

namespace Sys2Proof.Machine

/-- The input ports other than `clk` (R80, 20_memory.md). -/
structure PortsIn where
  rst : Bool
  rxValid : Bool
  rxErr : Bool
  rxData : Byte
  msgAddr : Nat
deriving DecidableEq, Repr

/-- The output ports of a state (R80, 20_memory.md). `txData` is none while `tx_valid = 0`. -/
structure PortsOut where
  rxReady : Bool
  txData : Option Byte
  done : Bool
  fail : Bool
  msgLen : Nat
  msgRdata : Byte
deriving DecidableEq, Repr

/-- `rx_ready` (R80, 20_memory.md; R260, 70_reset_and_hazards.md: 0 while `rst = 1`). -/
def State.rxReady (s : State) : Bool :=
  !s.rst && !s.rdy && (s.st = .awaitingControl || s.st = .readingBlockBody)

/-- `rx_valid` (R80, 20_memory.md). -/
def State.rxValid (s : State) : Bool := !s.rxq.isEmpty

/-- The head symbol on the pins. -/
def PortsIn.symbol (p : PortsIn) : Symbol := if p.rxErr then errSymbol p.rxData else byteSymbol p.rxData

/-- The pins as the transport and the host drive them in `s`, the host reading address `a`. -/
def pinsOf (a : Nat) (s : State) : PortsIn :=
  { rst := s.rst
    rxValid := s.rxValid
    rxErr := (s.rxq.headD 0).err
    rxData := (s.rxq.headD 0).data
    msgAddr := a }

/-- The bytes the step from `s` to `t` emitted: what `tx_valid` and `tx_data` show in the cycle after the
edge (R81, 20_memory.md). -/
def emitted (s t : State) : List Byte := t.tx.drop s.tx.length

/-- The outputs in the cycle after the edge that took `s` to `t`; `draw` numbers the host's read. -/
def portsOut (draw : Nat) (p : PortsIn) (s t : State) : PortsOut :=
  { rxReady := t.rxReady
    txData := (emitted s t).head?
    done := t.doneFlag
    fail := t.failFlag
    msgLen := t.msgLen
    msgRdata := memRead draw p.msgAddr t }

/-- One rising clock edge: the inputs are sampled, and the framer takes the step they allow (R81,
20_memory.md). Of the transport's queue it sees only the head. -/
def clockEdge (p : PortsIn) (s : State) : Result :=
  step { s with rst := p.rst, rxq := if p.rxValid then [p.symbol] else [] }

end Sys2Proof.Machine
end

