-- ==== Sys2Proof/Machine/Stream.lean ====
section
/-! DEFINITION. The stream notation `BLK` and `SEND` as lists of symbols (R116, R118, 30_encoding.md). -/

namespace Sys2Proof.Machine

/-- The frame of `BLK n : p0 p1 p2 p3 p4`, valid by construction (R116, 30_encoding.md). -/
def blkFrame (n p0 p1 p2 p3 p4 : Byte) : Frame :=
  ⟨n, 255 - n, p0, p1, p2, p3, p4, payloadSum p0 p1 p2 p3 p4⟩

/-- `BLK n : "text"` with at most five characters, padded with 0x03 (R116, 30_encoding.md). -/
def blkText (n : Byte) (t : List Byte) : Frame :=
  blkFrame n (t.getD 0 Config.ETX) (t.getD 1 Config.ETX) (t.getD 2 Config.ETX) (t.getD 3 Config.ETX)
    (t.getD 4 Config.ETX)

/-- The blocks of a text in chunks of five bytes, at most `fuel` of them, numbered from `n` upward mod 256
(R118, 30_encoding.md). -/
def sendFrames : Nat → Byte → List Byte → List Frame
  | 0, _, _ => []
  | fuel + 1, n, t =>
    if t.isEmpty then []
    else blkText n (t.take Config.payloadLen) :: sendFrames fuel (n + 1) (t.drop Config.payloadLen)

/-- `SEND n0 "text"`, the symbols of the text's blocks in order; no closing EOT (R118, 30_encoding.md). -/
def send (n0 : Byte) (t : List Byte) : List Symbol :=
  (sendFrames t.length n0 t).flatMap Frame.symbols

end Sys2Proof.Machine
end

