-- ==== Sys2Proof/Safety.lean ====
section
/-! DEFINITION. What a good state is: the invariants of R30 (10_state.md), with what makes them inductive. -/

namespace Sys2Proof

open Machine

/-- The payload bytes captured before block offset `j`, summed mod 256 (R26, 10_state.md; R143,
41_block.md). -/
def capturedSum (p : PayRegs) (j : Nat) : Byte := (p.toList.take (j - 3)).foldl addMod256 0

/-- The invariants of the framer (R30, 10_state.md; R26; R69, 20_memory.md). -/
structure Inv (s : State) : Prop where
  /-- R30 (a), (b), and `rdy = 1` only in `AwaitingControl` (R22, R23) -/
  seqOk : s.seqOk = true
  /-- R30 (c) -/
  fresh : s.rdy = true → s.msg = [] ∧ s.tx = [] ∧ s.rxn = 0
  /-- R30 (d) -/
  noPadding : ∀ b ∈ s.msg.bytes, b ≠ Config.ETX
  /-- R30 (e), the alphabet of TX -/
  responses : ∀ b ∈ s.tx, b = Config.ACK ∨ b = Config.NAK
  /-- R30 (e), every session opens with NAK, and has opened once `rdy = 0` (R196) -/
  opens : s.rdy = false → s.tx.head? = some Config.NAK
  /-- R30 (f) -/
  doneAck : s.st = .done → s.tx.getLast? = some Config.ACK
  /-- R69: the store holds addresses 0 to `mlen - 1` -/
  store : s.msg.wf = true
  /-- R26: within a block `sum` is the sum of the payload bytes captured so far -/
  sumTracks : s.st = .readingBlockBody → s.sum = capturedSum s.pay s.idx.toNat

/-- The staging registers that a block has written by offset `j` and the rest of it will read agree; the
others are dead (R28, R35, 10_state.md). `sum` is live from offset 1, `seq` from 2, `cmp` from 3, `pay[i]` from
`4 + i`. -/
def stagingAgree (j : Nat) (s t : State) : Prop :=
  (1 ≤ j → s.sum = t.sum) ∧ (2 ≤ j → s.seq = t.seq) ∧ (3 ≤ j → s.cmp = t.cmp) ∧
    ∀ i : Fin 5, 4 + i.val ≤ j → s.pay.get i = t.pay.get i

/-- Two states that differ at most in dead staging registers (R28, R35, 10_state.md): outside a block every
staging register is dead. -/
structure SameButDeadStaging (s t : State) : Prop where
  st : s.st = t.st
  rdy : s.rdy = t.rdy
  idx : s.idx = t.idx
  msg : s.msg = t.msg
  tx : s.tx = t.tx
  rxn : s.rxn = t.rxn
  rxq : s.rxq = t.rxq
  rst : s.rst = t.rst
  msgCap : s.msgCap = t.msgCap
  staging : stagingAgree s.idx.toNat s t

/-- The step enabled in `s` has label `l`, is taken, and leads to `st`, `idx` with `out` emitted: a row of the
transition table (R31, 10_state.md). -/
def StepGoes (s : State) (l : Label) (st : St) (idx : BitVec 4) (out : List Byte) : Prop :=
  stepLabel s = some l ∧ ∃ t, step s = .next t ∧ t.st = st ∧ t.idx = idx ∧ t.tx = s.tx ++ out

/-- The framer waits: it is out of reset, owes no NAK, has not ended, and no symbol has arrived (R62,
20_memory.md; R249, 60_exceptions.md). -/
def Waiting (s : State) : Prop :=
  s.rst = false ∧ s.rdy = false ∧ s.outcome = .running ∧ s.rxq = []

end Sys2Proof
end

