-- ==== Sys2Proof/Certificates/Slice0/Obligations.lean ====
section
/-! DEFINITION. The statements for the provers, from the numbered rules of spec/. -/

open Sys2Proof Sys2Proof.Machine

/-! ## Encoding -/

/-- Words written out bit by bit from the opcode table (R104, R107, R108, 30_encoding.md) decode to the instruction
they stand for. -/
def Obligations.WrittenWordsDecode : Prop :=
  decodeRx .control 0b000000100#9 = .ok .eot ∧
  decodeRx .control 0b000000001#9 = .ok .block ∧
  decodeRx .control 0b010000001#9 = .ok (.noise80 0b10000001#8) ∧
  decodeRx .control 0b001000001#9 = .ok (.noise40 0b01000001#8) ∧
  decodeRx .control 0b000100000#9 = .ok (.noise20 0b00100000#8) ∧
  decodeRx .control 0b000010101#9 = .ok (.noise10 0b00010101#8) ∧
  decodeRx .control 0b000001111#9 = .ok (.noise08 0b00001111#8) ∧
  decodeRx .control 0b000000110#9 = .ok (.noise06 0b00000110#8) ∧
  decodeRx .control 0b000000101#9 = .ok .noise05 ∧
  decodeRx .control 0b000000011#9 = .ok (.noise02 0b00000011#8) ∧
  decodeRx .control 0b000000000#9 = .ok .noise00 ∧
  decodeRx .control 0b100000100#9 = .ok (.rxerr 0b00000100#8) ∧
  decodeRx .body 0b000000100#9 = .ok (.bodybyte 0b00000100#8) ∧
  decodeRx .body 0b100000001#9 = .ok (.rxerr 0b00000001#8) ∧
  decodeTx 0b00000110#8 = .ok .ack ∧
  decodeTx 0b00010101#8 = .ok .nak

/-- R107: at control every one of the 512 symbols lies in exactly one row, and the four classes are the ones the
rule names. -/
def Obligations.ControlDecodingTotalUnambiguous : Prop :=
  ∀ x : Symbol,
    (controlRows.filter (fun r => r.takes x)).length = 1 ∧
    (decodeRx .control x = .ok .eot ↔ x = 0b000000100#9) ∧
    (decodeRx .control x = .ok .block ↔ x = 0b000000001#9) ∧
    ((∃ d, decodeRx .control x = .ok (.rxerr d)) ↔ x.err = true) ∧
    ((∃ i, decodeRx .control x = .ok i ∧ i.noiseByte = some x.data) ↔
      x.err = false ∧ x ≠ 0b000000100#9 ∧ x ≠ 0b000000001#9)

/-- Decoding the word of any well-formed instruction gives it back, every operand at every value its encoding admits;
`RXERR` in both contexts it is decoded in. -/
def Obligations.DecodeOfEncodeIsIdentity : Prop :=
  (∀ i : Instr, i.wf = true → decode i.context (encode i) = .ok i) ∧
  (∀ d : Byte, decode .body (encode (.rxerr d)) = .ok (.rxerr d))

/-- Every word the decoder reads is the word of the instruction it answers, and that instruction is well formed. -/
def Obligations.EncodeOfDecodeIsIdentity : Prop :=
  ∀ (ctx : DecodeContext) (w : Encoded) (i : Instr), decode ctx w = .ok i → i.wf = true ∧ encode i = w

/-- R103: a frame is recovered from its nine symbols and from its 72-bit string with no bit lost, and nothing else is
read as that block. -/
def Obligations.FrameEncodingsRoundTrip : Prop :=
  (∀ (f : Frame) (rest : List Symbol), cutUnit (f.symbols ++ rest) = some (.block f, rest)) ∧
  (∀ (xs rest : List Symbol) (f : Frame), cutUnit xs = some (.block f, rest) → xs = f.symbols ++ rest) ∧
  (∀ f : Frame, Frame.ofBits f.bits = some f) ∧
  (∀ (w : BitVec 72) (f : Frame), Frame.ofBits w = some f → f.bits = w)

/-- R106: how many symbols a unit takes is known from its first symbol, but for a block that meets `Err` at offset `j`,
which ends there, after `j + 1` symbols. A start marker and eight bytes are a block; a start marker, at most seven bytes
and an `Err` are a truncated one; nothing else is cut at a start marker. -/
def Obligations.UnitLengthFollowsFirstSymbol : Prop :=
  (∀ (x : Symbol) (xs : List Symbol), x ≠ 0b000000001#9 →
    ∃ i, cutUnit (x :: xs) = some (.single i, xs) ∧ (StreamUnit.single i).length = 1) ∧
  (∀ (bs : List Byte) (rest : List Symbol), bs.length = 8 →
    ∃ f : Frame, f.body = bs ∧ (StreamUnit.block f).length = 9 ∧
      cutUnit (0b000000001#9 :: (bs.map byteSymbol ++ rest)) = some (.block f, rest)) ∧
  (∀ (bs : List Byte) (e : Symbol) (rest : List Symbol), bs.length ≤ 7 → e.err = true →
    cutUnit (0b000000001#9 :: (bs.map byteSymbol ++ e :: rest)) = some (.truncated (bs.length + 1), rest) ∧
      (StreamUnit.truncated (bs.length + 1)).length = bs.length + 2) ∧
  (∀ (xs rest : List Symbol) (u : StreamUnit), cutUnit (0b000000001#9 :: xs) = some (u, rest) →
    u.length ≤ xs.length + 1 ∧ rest = xs.drop (u.length - 1) ∧
    ((∃ f, u = .block f ∧ u.length = 9 ∧ ∀ m, m < 8 → ∃ e, xs[m]? = some e ∧ e.err = false) ∨
      ∃ j, u = .truncated j ∧ u.length = j + 1 ∧ 1 ≤ j ∧ j ≤ 8 ∧
        (∃ e, xs[j - 1]? = some e ∧ e.err = true) ∧
        ∀ m, m < j - 1 → ∃ e, xs[m]? = some e ∧ e.err = false))

/-! ## The step -/

/-- When a symbol is read, the step is the meaning of the instruction decoded from it, in the state in which the symbol
is gone and counted (R62, R105). -/
def Obligations.StepRunsDecodedInstruction : Prop :=
  ∀ (s : State) (ctx : DecodeContext) (x : Symbol) (xs : List Symbol) (i : Instr),
    s.rst = false → s.rdy = false → s.seqOk = true →
    ((s.st = .awaitingControl ∧ ctx = .control) ∨ (s.st = .readingBlockBody ∧ ctx = .body)) →
    s.rxq = x :: xs → decodeRx ctx x = .ok i →
    step s = exec i { s with rxq := xs, rxn := s.rxn + 1 }

/-- R196: `Ready` is the step exactly when `rdy = 1`; it emits NAK and clears `rdy`, reads nothing, and no step ever
leaves `rdy` set, so it happens once. -/
def Obligations.ReadyStepEmitsNakOnce : Prop :=
  (∀ s : State, s.rst = false → s.seqOk = true →
    (stepLabel s = some .ready ↔ s.rdy = true)) ∧
  (∀ s : State, s.rst = false → s.seqOk = true → s.rdy = true →
    s.st = .awaitingControl ∧ step s = .next { s with tx := s.tx ++ [0x15], rdy := false }) ∧
  (∀ s t : State, s.rst = false → step s = .next t → t.rdy = false)

/-- R62, R249: with no symbol in the queue the framer holds its whole state, and an arriving symbol ends the wait. That
the hold is a next state equal to the state is the model's choice (log 8). -/
def Obligations.WaitHoldsUntilArrival : Prop :=
  ∀ s : State, Waiting s → s.seqOk = true →
    step s = .next s ∧ stepLabel s = none ∧ ∀ x, stepLabel (s.arrive x) ≠ none

/-- R132, R224: in `Done` and `Failed` nothing is consumed or emitted and no register changes, whatever arrives and
however long it runs, and a reset edge leaves them. That having no step is a next state equal to the state is the
model's choice (log 8). -/
def Obligations.TerminalStatesHold : Prop :=
  ∀ s : State, (s.st = .done ∨ s.st = .failed) → s.rdy = false → s.idx = 0 →
    s.rxReady = false ∧
    (s.rst = false → ∀ es : List Event, (∀ e ∈ es, e.notReset = true) →
      runEvents es s = .next { s with rxq := s.rxq ++ arrivals es }) ∧
    (s.rst = true → ∃ t, step s = .next t ∧ t.st = .awaitingControl)

/-- R260: a clock edge with `rst = 1` takes the reset state, from every state; the staging registers are not reset, the
queue is not touched, and once `rst = 0` the session starts with the readiness NAK. -/
def Obligations.ResetEdgeTakesResetState : Prop :=
  ∀ s : State, s.rst = true →
    step s = .next { s with st := .awaitingControl, rdy := true, idx := 0, msg := [], tx := [], rxn := 0 } ∧
    stepLabel s = none ∧ s.rxReady = false ∧
    ∀ t, step s = .next t → t.doneFlag = false ∧ t.failFlag = false ∧ t.seq = s.seq ∧ t.cmp = s.cmp ∧
      t.sum = s.sum ∧ t.pay = s.pay ∧ t.rxq = s.rxq ∧ stepLabel (t.setRst false) = some .ready

/-- R261: reset in any state, released, gives a new session that opens with one NAK and an empty Message; the queue's
symbols are its first input (R262). -/
def Obligations.EverySessionOpensWithOneNak : Prop :=
  ∀ s : State,
    ∃ t, runEvents [.setRst true, .tick, .setRst false, .tick] s = .next t ∧
      t.tx = [0x15] ∧ t.msg = [] ∧ t.rxn = 0 ∧ t.rxq = s.rxq ∧ t.st = .awaitingControl ∧ t.idx = 0 ∧
      t.rdy = false ∧ t.outcome = .running

/-- R37: the reset state, but for the staging registers and the queue, whose values there are the model's. -/
def Obligations.ResetStateValues : Prop :=
  State.reset.st = .awaitingControl ∧ State.reset.rdy = true ∧ State.reset.idx = 0 ∧
  State.reset.msg = [] ∧ State.reset.doneFlag = false ∧ State.reset.failFlag = false ∧
  State.reset.status = 0b00#2 ∧ State.reset.msgLen = 0 ∧ State.reset.tx = [] ∧ State.reset.rxn = 0

/-! ## What each instruction does -/

/-- R130: EOT emits ACK and ends the session; nothing else changes. -/
def Obligations.EotAcknowledgesAndTerminates : Prop :=
  decodeRx .control 0b000000100#9 = .ok .eot ∧ (∀ s : State, instrLabel s .eot = some .eot) ∧
  ∀ s : State, s.rdy = false → s.st = .awaitingControl → s.idx = 0 →
    ∃ t, exec .eot s = .next t ∧ t = { s with tx := s.tx ++ [0x06], st := .done, idx := 0 } ∧
      t.doneFlag = true ∧ t.failFlag = false ∧ t.outcome = .normalTermination

/-- R140: a block's first symbol starts the block with a zero sum. -/
def Obligations.BlockStartSetsOffsetOne : Prop :=
  decodeRx .control 0b000000001#9 = .ok .block ∧ (∀ s : State, instrLabel s .block = some .blockStart) ∧
  ∀ s : State, s.rdy = false → s.st = .awaitingControl → s.idx = 0 →
    exec .block s = .next { s with st := .readingBlockBody, idx := 1, sum := 0 }

/-- R180: each of the nine NOISE rows changes nothing, the rows are the 254 byte values other than 0x01 and 0x04, and
the whole effect of their step is that the symbol is gone and counted. -/
def Obligations.NoiseChangesNothing : Prop :=
  (∀ b : Byte, b ≠ 0x01 → b ≠ 0x04 →
    ∃ i, decodeRx .control (byteSymbol b) = .ok i ∧ i.noiseByte = some b) ∧
  (∀ (i : Instr) (b : Byte) (s : State), i.noiseByte = some b →
    s.rdy = false → s.st = .awaitingControl → s.idx = 0 →
    exec i s = .next s ∧ instrLabel s i = some .discard) ∧
  (∀ (b : Byte) (s : State) (xs : List Symbol), b ≠ 0x01 → b ≠ 0x04 → s.rst = false → s.rdy = false →
    s.st = .awaitingControl → s.idx = 0 → s.rxq = byteSymbol b :: xs →
    step s = .next { s with rxq := xs, rxn := s.rxn + 1 })

/-- R141, R142, R143: what a body byte at offsets 1 to 7 writes, and its label; everything else is unchanged. -/
def Obligations.BodyBytesAreCaptured : Prop :=
  ∀ (s : State) (b : Byte), s.rdy = false → s.st = .readingBlockBody →
    (s.idx = 1 → exec (.bodybyte b) s = .next { s with seq := b, idx := 2 }) ∧
    (s.idx = 2 → exec (.bodybyte b) s = .next { s with cmp := b, idx := 3 }) ∧
    (∀ j : Fin 5, s.idx.toNat = 3 + j.val →
      ∃ p : PayRegs, p.get j = b ∧ (∀ m, m ≠ j → p.get m = s.pay.get m) ∧
        exec (.bodybyte b) s = .next
          { s with pay := p, sum := BitVec.ofNat 8 ((s.sum.toNat + b.toNat) % 256),
                   idx := BitVec.ofNat 4 (4 + j.val) }) ∧
    (s.idx ≠ 8 → instrLabel s (.bodybyte b) = some .bodyByte)

/-- R220: at offset 8 a wrong complement gives `FramingError`, whatever the checksum. -/
def Obligations.WrongComplementIsFramingError : Prop :=
  ∀ (s : State) (k : Byte), s.rdy = false → s.st = .readingBlockBody → s.idx = 8 →
    s.cmp.toNat ≠ 255 - s.seq.toNat →
    verdictLabel k s = .framingError ∧
    exec (.bodybyte k) s = .next { s with tx := s.tx ++ [0x15], st := .awaitingControl, idx := 0 }

/-- R221: at offset 8 a right complement with a checksum byte other than `sum` gives `ChecksumError`, with the same
effect. -/
def Obligations.WrongChecksumIsChecksumError : Prop :=
  ∀ (s : State) (k : Byte), s.rdy = false → s.st = .readingBlockBody → s.idx = 8 →
    s.cmp.toNat = 255 - s.seq.toNat → k ≠ s.sum →
    verdictLabel k s = .checksumError ∧
    exec (.bodybyte k) s = .next { s with tx := s.tx ++ [0x15], st := .awaitingControl, idx := 0 }

/-- R148, R70: at offset 8 with both checks passed the payload less its padding is appended and ACK emitted; bytes
already held keep their address, and the new ones follow them. -/
def Obligations.ValidBlockIsAppendedAndAcknowledged : Prop :=
  ∀ (s : State) (k : Byte) (kept : List Byte), s.rdy = false → s.st = .readingBlockBody → s.idx = 8 →
    s.cmp.toNat = 255 - s.seq.toNat → k = s.sum → s.msg.wf = true →
    kept = [s.pay.p0, s.pay.p1, s.pay.p2, s.pay.p3, s.pay.p4].filter (fun x => x != 0x03) →
    (∀ cap, s.msgCap = some cap → s.msg.mlen + kept.length ≤ cap) →
    verdictLabel k s = .accept ∧
    ∃ m : Memory,
      exec (.bodybyte k) s = .next
        { s with msg := m, tx := s.tx ++ [0x06], st := .awaitingControl, idx := 0 } ∧
      m.bytes = s.msg.bytes ++ kept ∧ m.mlen = s.msg.mlen + kept.length ∧ m.wf = true ∧
      (∀ a, a < s.msg.mlen → m.read a = s.msg.read a) ∧
      (∀ j, j < kept.length → m.read (s.msg.mlen + j) = kept[j]?) ∧
      (∀ a, s.msg.mlen + kept.length ≤ a → m.read a = s.msg.read a)

/-- R72: an append that a finite MSG_CAP cannot hold is refused, and no step takes the Message past it. -/
def Obligations.AppendBeyondCapacityIsRefused : Prop :=
  (∀ (s : State) (cap : Nat), s.rdy = false → s.st = .readingBlockBody → s.idx = 8 →
    s.cmp.toNat = 255 - s.seq.toNat → s.msgCap = some cap →
    cap < s.msg.mlen + (stripPadding s.pay.toList).length →
    exec (.bodybyte s.sum) s = .refused .msgCapExceeded) ∧
  (∀ (s t : State) (cap : Nat), s.msgCap = some cap → s.msg.mlen ≤ cap → step s = .next t →
    t.msgCap = some cap ∧ t.msg.mlen ≤ cap)

/-- R222: an `Err` symbol ends the session at control and at every block offset; nothing is emitted and nothing else
changes. While the readiness NAK is owed, and after the end, it is not consumed. -/
def Obligations.TransportErrorEndsSession : Prop :=
  (∀ x : Symbol, x.err = true →
    decodeRx .control x = .ok (.rxerr x.data) ∧ decodeRx .body x = .ok (.rxerr x.data)) ∧
  (∀ (s : State) (d : Byte), s.rdy = false →
    ((s.st = .awaitingControl ∧ s.idx = 0) ∨ (s.st = .readingBlockBody ∧ 1 ≤ s.idx ∧ s.idx ≤ 8)) →
    ∃ t, exec (.rxerr d) s = .next t ∧ t = { s with st := .failed, idx := 0 } ∧
      t.failFlag = true ∧ t.doneFlag = false ∧ t.outcome = .ioFailure) ∧
  (∀ s t : State, s.rst = false → (s.rdy = true ∨ s.st = .done ∨ s.st = .failed) → step s = .next t →
    t.rxq = s.rxq ∧ t.st = s.st)

/-- R191: ACK writes 0x06 and NAK writes 0x15 to the TX channel, in every state, and nothing else changes. -/
def Obligations.ResponseBytesAreWritten : Prop :=
  decodeTx 0b00000110#8 = .ok .ack ∧ decodeTx 0b00010101#8 = .ok .nak ∧
  ∀ s : State, exec .ack s = .next { s with tx := s.tx ++ [0x06] } ∧
    exec .nak s = .next { s with tx := s.tx ++ [0x15] }

/-- The opcode table's `decoded_in` column: outside it a meaning is refused by name. That it is refused, and not run, is
the model's choice (log 6). -/
def Obligations.RefusedWhereNotDecoded : Prop :=
  (∀ (i : Instr) (s : State), (i = .eot ∨ i = .block ∨ ∃ b, i.noiseByte = some b) →
    ¬ (s.rdy = false ∧ s.st = .awaitingControl ∧ s.idx = 0) → exec i s = .refused .notDecodedHere) ∧
  (∀ (b : Byte) (s : State),
    ¬ (s.rdy = false ∧ s.st = .readingBlockBody ∧ 1 ≤ s.idx ∧ s.idx ≤ 8) →
    exec (.bodybyte b) s = .refused .notDecodedHere) ∧
  (∀ (d : Byte) (s : State),
    ¬ (s.rdy = false ∧ ((s.st = .awaitingControl ∧ s.idx = 0) ∨
      (s.st = .readingBlockBody ∧ 1 ≤ s.idx ∧ s.idx ≤ 8))) →
    exec (.rxerr d) s = .refused .notDecodedHere)

/-- The frame of EOT, BLOCK, NOISE and RXERR, which store nothing: every byte of the Message, every staging register but
the sum BLOCK clears, and everything outside the framer is unchanged; only EOT emits. -/
def Obligations.FrameOfControlInstructions : Prop :=
  ∀ (i : Instr) (s t : State),
    (i = .eot ∨ i = .block ∨ (∃ b, i.noiseByte = some b) ∨ ∃ d, i = .rxerr d) → exec i s = .next t →
    (∀ a, t.msg.read a = s.msg.read a) ∧ t.msg = s.msg ∧
    t.seq = s.seq ∧ t.cmp = s.cmp ∧ t.pay = s.pay ∧ (i ≠ .block → t.sum = s.sum) ∧
    t.rdy = s.rdy ∧ t.rxn = s.rxn ∧ t.rxq = s.rxq ∧ t.rst = s.rst ∧ t.msgCap = s.msgCap ∧
    (i ≠ .eot → t.tx = s.tx)

/-- The frame of BODYBYTE: outside offset 8 every byte of the Message reads as before; at offset 8 every byte below the
old length does, and so does every address past the bytes appended; a staging register changes only at its own
offset. -/
def Obligations.FrameOfBodyByte : Prop :=
  ∀ (b : Byte) (s t : State), s.msg.wf = true → exec (.bodybyte b) s = .next t →
    (s.idx ≠ 8 → t.msg = s.msg ∧ (∀ a, t.msg.read a = s.msg.read a) ∧ t.tx = s.tx) ∧
    (s.idx = 8 → verdictLabel b s ≠ .accept → t.msg = s.msg ∧ ∀ a, t.msg.read a = s.msg.read a) ∧
    (s.idx = 8 → verdictLabel b s = .accept →
      ∀ a, (a < s.msg.mlen ∨ s.msg.mlen + (stripPadding s.pay.toList).length ≤ a) →
        t.msg.read a = s.msg.read a) ∧
    (s.idx ≠ 1 → t.seq = s.seq) ∧ (s.idx ≠ 2 → t.cmp = s.cmp) ∧
    (¬ (3 ≤ s.idx ∧ s.idx ≤ 7) → t.sum = s.sum) ∧
    (∀ j : Fin 5, s.idx.toNat ≠ 3 + j.val → t.pay.get j = s.pay.get j) ∧
    t.rdy = s.rdy ∧ t.rxn = s.rxn ∧ t.rxq = s.rxq ∧ t.rst = s.rst ∧ t.msgCap = s.msgCap

/-! ## The checks and the filter -/

/-- R145: the complement check and its equivalent forms; each `n` has exactly one passing `c`; a failed check decides
the verdict, whatever the checksum. -/
def Obligations.ComplementCheckForms : Prop :=
  (∀ n : Byte,
    (∀ c : Byte, (complementOk n c = true ↔ c.toNat = 255 - n.toNat) ∧
      (complementOk n c = true ↔ n.toNat + c.toNat = 255) ∧
      (complementOk n c = true ↔ c = ~~~n) ∧
      (complementOk n c = true ↔ n ^^^ c = 0xFF)) ∧
    ∃! c : Byte, complementOk n c = true) ∧
  ∀ (s : State) (k : Byte), s.cmpOk = complementOk s.seq s.cmp ∧
    (complementOk s.seq s.cmp = false → verdictLabel k s = .framingError)

/-- R146: in a good state at offset 8 the checksum check passes exactly when the byte is the sum of the five payload
bytes mod 256; exactly one byte passes. -/
def Obligations.ChecksumCheckIsPayloadSum : Prop :=
  ∀ s : State, Inv s → s.st = .readingBlockBody → s.idx = 8 →
    (∀ k : Byte, s.sumOk k = true ↔
      k.toNat = (s.pay.p0.toNat + s.pay.p1.toNat + s.pay.p2.toNat + s.pay.p3.toNat + s.pay.p4.toNat) % 256) ∧
    ∃! k : Byte, s.sumOk k = true

/-- R147: what the padding filter keeps. -/
def Obligations.PaddingFilterRemovesExactlyPadding : Prop :=
  ∀ p0 p1 p2 p3 p4 : Byte,
    (stripPadding [p0, p1, p2, p3, p4]).Sublist [p0, p1, p2, p3, p4] ∧
    (0x03 : Byte) ∉ stripPadding [p0, p1, p2, p3, p4] ∧
    (∀ b : Byte, b ≠ 0x03 →
      (stripPadding [p0, p1, p2, p3, p4]).count b = [p0, p1, p2, p3, p4].count b) ∧
    (stripPadding [p0, p1, p2, p3, p4]).length ≤ 5

/-- R278: the additive checksum cannot see the order of the payload bytes. -/
def Obligations.ChecksumMissesReordering : Prop :=
  ∀ f g : Frame, frameValid f = true → g.n = f.n → g.c = f.c → g.k = f.k → g.payload.Perm f.payload →
    frameValid g = true

/-! ## Status and host -/

/-- R32, R33, R34: flags, outcome, code, `STATUS` and `MSGLEN` are functions of the state, as the rules give
them. -/
def Obligations.StatusFollowsState : Prop :=
  ∀ s : State,
    (s.doneFlag = true ↔ s.st = .done) ∧ (s.failFlag = true ↔ s.st = .failed) ∧
    ¬ (s.doneFlag = true ∧ s.failFlag = true) ∧
    (s.outcome = .running ↔ s.st = .awaitingControl ∨ s.st = .readingBlockBody) ∧
    (s.outcome = .normalTermination ↔ s.st = .done) ∧ (s.outcome = .ioFailure ↔ s.st = .failed) ∧
    s.status = s.outcome.code ∧ s.status.getLsbD 0 = s.doneFlag ∧ s.status.getLsbD 1 = s.failFlag ∧
    s.status ≠ 0b11#2 ∧ s.msgLen = s.msg.bytes.length

/-- R32: `done` is set by the `Eot` step and `fail` by the `IoFailure` step, and only a reset edge clears them. -/
def Obligations.FlagsSetByTheirStepsOnly : Prop :=
  ∀ s t : State, step s = .next t →
    (s.doneFlag = false → (t.doneFlag = true ↔ stepLabel s = some .eot)) ∧
    (s.failFlag = false → (t.failFlag = true ↔ stepLabel s = some .ioFailure)) ∧
    (s.rst = false → (s.doneFlag = true → t.doneFlag = true) ∧ (s.failFlag = true → t.failFlag = true))

/-- R74: after termination a host read below `mlen` gives the Message's byte; any other read gives a byte the spec
leaves unspecified, the model's free value (log 5). -/
def Obligations.HostReadsFinishedMessage : Prop :=
  ∀ (s : State) (draw a : Nat), s.msg.wf = true →
    ((s.st = .done ∨ s.st = .failed) → a < s.msg.mlen → s.msg.bytes[a]? = some (memRead draw a s)) ∧
    ((s.outcome = .running ∨ s.msg.mlen ≤ a) → memRead draw a s = Config.unspecifiedByte draw)

/-! ## The whole machine -/

/-- The invariants of R30 hold right after reset, whatever waits in the queue. -/
def Obligations.InvariantAtReset : Prop := ∀ q : List Symbol, Inv { State.reset with rxq := q }

/-- Every step keeps the invariants, from every state that has them. -/
def Obligations.EveryStepKeepsInvariant : Prop := ∀ s t : State, Inv s → step s = .next t → Inv t

/-- R30: in every state reachable from reset by any interleaving of steps, arriving symbols and resets, (a) to (f)
hold. -/
def Obligations.ReachableStatesSatisfyInvariants : Prop :=
  ∀ (es : List Event) (s : State), runEvents es State.reset = .next s →
    (s.st = .readingBlockBody ↔ 1 ≤ s.idx.toNat ∧ s.idx.toNat ≤ 8) ∧
    (s.st ≠ .readingBlockBody → s.idx = 0) ∧
    (s.rdy = true → s.st = .awaitingControl ∧ s.msg.bytes = [] ∧ s.tx = [] ∧ s.rxn = 0) ∧
    (∀ b ∈ s.msg.bytes, b ≠ 0x03) ∧
    ((∀ b ∈ s.tx, b = 0x06 ∨ b = 0x15) ∧ (s.tx ≠ [] → s.tx.head? = some 0x15)) ∧
    (s.st = .done → s.tx.getLast? = some 0x06)

/-- R31: the transition table, row by row, for every symbol. -/
def Obligations.TransitionTable : Prop :=
  ∀ s : State, s.rst = false → s.seqOk = true → s.msgCap = none →
    (s.rdy = true → StepGoes s .ready .awaitingControl 0 [0x15]) ∧
    (s.rdy = false → ∀ (x : Symbol) (xs : List Symbol), s.rxq = x :: xs →
      (s.st = .awaitingControl → x = 0b000000100#9 → StepGoes s .eot .done 0 [0x06]) ∧
      (s.st = .awaitingControl → x = 0b000000001#9 → StepGoes s .blockStart .readingBlockBody 1 []) ∧
      (s.st = .awaitingControl → x.err = false → x ≠ 0b000000100#9 → x ≠ 0b000000001#9 →
        StepGoes s .discard .awaitingControl 0 []) ∧
      (s.st = .awaitingControl → x.err = true → StepGoes s .ioFailure .failed 0 []) ∧
      (s.st = .readingBlockBody → x.err = false → s.idx ≤ 7 →
        StepGoes s .bodyByte .readingBlockBody (s.idx + 1) []) ∧
      (s.st = .readingBlockBody → x.err = false → s.idx = 8 → s.cmp ≠ 255 - s.seq →
        StepGoes s .framingError .awaitingControl 0 [0x15]) ∧
      (s.st = .readingBlockBody → x.err = false → s.idx = 8 → s.cmp = 255 - s.seq → x.data ≠ s.sum →
        StepGoes s .checksumError .awaitingControl 0 [0x15]) ∧
      (s.st = .readingBlockBody → x.err = false → s.idx = 8 → s.cmp = 255 - s.seq → x.data = s.sum →
        StepGoes s .accept .awaitingControl 0 [0x06]) ∧
      (s.st = .readingBlockBody → x.err = true → StepGoes s .ioFailure .failed 0 [])) ∧
    ((s.st = .done ∨ s.st = .failed) → stepLabel s = none ∧ ∀ t, step s = .next t → t = s)

/-- R190: the four situations in which a byte is emitted, and no other. -/
def Obligations.EmissionsInFourSituationsOnly : Prop :=
  ∀ s t : State, s.rst = false → step s = .next t →
    t.tx = s.tx ++
      (match stepLabel s with
      | some .ready => [0x15]
      | some .accept => [0x06]
      | some .framingError => [0x15]
      | some .checksumError => [0x15]
      | some .eot => [0x06]
      | some .blockStart | some .bodyByte | some .discard | some .ioFailure | none => [])

/-- R71: the append is all or nothing, and only an accepted block makes one. -/
def Obligations.MessageGrowsByWholeAcceptedPayloads : Prop :=
  ∀ s t : State, s.rst = false → step s = .next t →
    (stepLabel s = some .accept ∧ t.msg.bytes = s.msg.bytes ++
      [s.pay.p0, s.pay.p1, s.pay.p2, s.pay.p3, s.pay.p4].filter (fun x => x != 0x03)) ∨
    (stepLabel s ≠ some .accept ∧ t.msg = s.msg)

/-- R68: nothing removes, reorders or overwrites a byte once appended, over any sequence of events without a reset; a
reset edge empties the store. -/
def Obligations.MessageIsAppendOnly : Prop :=
  (∀ (es : List Event) (s t : State), s.rst = false → (∀ e ∈ es, e.notReset = true) → s.msg.wf = true →
    runEvents es s = .next t →
    s.msg.bytes <+: t.msg.bytes ∧ t.msg.wf = true ∧ ∀ a, a < s.msg.mlen → t.msg.read a = s.msg.read a) ∧
  (∀ s t : State, s.rst = true → step s = .next t → t.msg = [])

/-- R24 to R27: a staging register changes only in the step the rules name as its writer, and to the value they
give. -/
def Obligations.StagingRegistersHaveOneWriter : Prop :=
  ∀ s t : State, step s = .next t →
    (t.seq ≠ s.seq → s.inBody = true ∧ s.idx = 1 ∧
      ∃ x xs, s.rxq = x :: xs ∧ x.err = false ∧ t.seq = x.data) ∧
    (t.cmp ≠ s.cmp → s.inBody = true ∧ s.idx = 2 ∧
      ∃ x xs, s.rxq = x :: xs ∧ x.err = false ∧ t.cmp = x.data) ∧
    (t.sum ≠ s.sum → (stepLabel s = some .blockStart ∧ t.sum = 0) ∨
      (s.inBody = true ∧ 3 ≤ s.idx ∧ s.idx ≤ 7 ∧
        ∃ x xs, s.rxq = x :: xs ∧ x.err = false ∧ t.sum.toNat = (s.sum.toNat + x.data.toNat) % 256)) ∧
    (∀ j : Fin 5, t.pay.get j ≠ s.pay.get j → s.inBody = true ∧ s.idx.toNat = 3 + j.val ∧
      ∃ x xs, s.rxq = x :: xs ∧ x.err = false ∧ t.pay.get j = x.data)

/-- R62, R80: a step takes the head symbol off the queue exactly when `rx_ready` and `rx_valid` are 1, one symbol at a
time, and no step writes the reset input or the capacity. -/
def Obligations.SymbolConsumedOnHandshake : Prop :=
  ∀ s t : State, s.rst = false → step s = .next t →
    (s.rxReady = true ∧ s.rxValid = true → t.rxq = s.rxq.tail ∧ t.rxn = s.rxn + 1) ∧
    (¬ (s.rxReady = true ∧ s.rxValid = true) → t.rxq = s.rxq ∧ t.rxn = s.rxn) ∧
    t.rst = s.rst ∧ t.msgCap = s.msgCap

/-- R64: in every state the spec calls reachable `step` answers a next state, for every symbol; the only refusal left is
an append beyond a finite capacity. Where the framer has no step (waiting, `Done`, `Failed`: R62, R132, R224) the answer
is the model's hold (log 8), and with `rst = 1` it is the reset edge (log 3); both are the model's choice and no labelled
step. -/
def Obligations.EveryReachableStateSteps : Prop :=
  ∀ s : State, (s.rst = true ∨ s.seqOk = true) →
    (∃ t, step s = .next t) ∨
    (step s = .refused .msgCapExceeded ∧ stepLabel s = some .accept ∧
      ∃ cap, s.msgCap = some cap ∧ cap < s.msg.mlen + (stripPadding s.pay.toList).length)

/-- R28, R35: a step does not read a dead staging register. -/
def Obligations.DeadStagingNotReadByStep : Prop :=
  ∀ s u t : State, SameButDeadStaging s u → step s = .next t →
    ∃ v, step u = .next v ∧ SameButDeadStaging t v

/-- R35, R28: no observation depends on what the staging registers hold outside a block, their values at reset among
them, over any sequence of events. -/
def Obligations.ObservationIndependentOfStaleStaging : Prop :=
  (∀ (es : List Event) (s u t : State), SameButDeadStaging s u → runEvents es s = .next t →
    ∃ v, runEvents es u = .next v ∧ t.observe = v.observe) ∧
  (∀ (q c m : Byte) (p : PayRegs),
    SameButDeadStaging State.reset { State.reset with seq := q, cmp := c, sum := m, pay := p })

/-- R198: the counting law, in every state a session reaches by steps and arriving symbols in any interleaving: `|tx|`,
the number of ACK and the number of NAK, from the labels of the steps taken. -/
def Obligations.CountingLaw : Prop :=
  ∀ (es : List Event) (s t : State), s.rst = false → s.seqOk = true → s.rdy = true → s.tx = [] →
    (∀ e ∈ es, e.notReset = true) → runEvents es s = .next t →
    t.tx.length = (if t.rdy then 0 else 1) +
      ((labelTrace es s).count .accept + (labelTrace es s).count .framingError +
        (labelTrace es s).count .checksumError) + (if t.st = .done then 1 else 0) ∧
    t.tx.count 0x06 = (labelTrace es s).count .accept + (if t.st = .done then 1 else 0) ∧
    t.tx.count 0x15 = (if t.rdy then 0 else 1) + (labelTrace es s).count .framingError +
      (labelTrace es s).count .checksumError

/-- R153: within a block no byte value has a control meaning; only `Err` cuts a block short. -/
def Obligations.BodyBytesHaveNoControlMeaning : Prop :=
  ∀ (s t : State) (b : Byte) (xs : List Symbol), s.rst = false → s.inBody = true →
    s.rxq = byteSymbol b :: xs → step s = .next t →
    (s.idx ≠ 8 → t.st = .readingBlockBody ∧ t.idx = s.idx + 1 ∧ t.tx = s.tx ∧ t.msg = s.msg ∧
      t.outcome = .running) ∧
    (s.idx = 8 → t.st = .awaitingControl ∧ t.idx = 0 ∧ t.outcome = .running) ∧
    t.rxq = xs

/-- R230 (a) to (d): complement before checksum, `Err` regardless of its data bits, `Ready` before any symbol, reset
before everything. -/
def Obligations.PriorityOfConditions : Prop :=
  (∀ (s : State) (k : Byte), s.cmp ≠ 255 - s.seq → k ≠ s.sum → verdictLabel k s = .framingError) ∧
  (∀ (s : State) (d e : Byte) (xs : List Symbol), s.rst = false → s.rdy = false → s.seqOk = true →
    s.outcome = .running →
    step { s with rxq := errSymbol d :: xs } = step { s with rxq := errSymbol e :: xs } ∧
    stepLabel { s with rxq := errSymbol d :: xs } = some .ioFailure) ∧
  (∀ (s : State) (x : Symbol), s.rst = false → s.rdy = true → s.seqOk = true →
    step { s with rxq := x :: s.rxq } =
      .next { s with rxq := x :: s.rxq, tx := s.tx ++ [0x15], rdy := false }) ∧
  (∀ s : State, s.rst = true → stepLabel s = none ∧ step s = .next s.takeReset)

/-- R8, R60, R64: when a symbol arrives makes no difference to a framer that is not waiting for one: the arrival and the
step commute. -/
def Obligations.ArrivalCommutesWithStep : Prop :=
  ∀ (s t : State) (x : Symbol), ¬ Waiting s → step s = .next t → step (s.arrive x) = .next (t.arrive x)

/-- R285: with work at hand the framer does not idle: a labelled step is enabled. The second clause is no sentence of
R285, which says only "eventually": from R7, R62 and R196, with nothing arriving and an unbounded Message, one answer of
`step` more than the queue is long leaves the queue empty or the session ended. It counts the model's answers of `step`,
holds among them (log 8), and says nothing of time. -/
def Obligations.QueueIsWorkedOff : Prop :=
  (∀ s : State, s.rst = false → s.seqOk = true → s.outcome = .running → (s.rdy = true ∨ s.rxq ≠ []) →
    stepLabel s ≠ none) ∧
  (∀ s : State, s.rst = false → s.seqOk = true → s.msgCap = none →
    ∃ t, runSteps (s.rxq.length + 1) s = .next t ∧ t.rdy = false ∧ (t.rxq = [] ∨ t.outcome ≠ .running))

/-- The clocked binding of log 13, which is the model's choice (DESIGN CHOICE: ports are functions of the states around an
edge, an edge is one step) after R80 and R81; R81 says that its cycle placements carry no rule of the model. A clock edge
that sees only the pins (the head of the queue and `rst`) takes the same step, and `tx_valid`, `tx_data` show the byte the
step emitted. -/
def Obligations.ClockEdgeIsOneStep : Prop :=
  ∀ (a draw : Nat) (s t : State), step s = .next t →
    clockEdge (pinsOf a s) s =
      .next { t with rxq := if s.rxReady = true ∧ s.rxValid = true then [] else s.rxq.take 1 } ∧
    (s.rst = false → ∀ b : Byte,
      (portsOut draw (pinsOf a s) s t).txData = some b ↔ t.tx = s.tx ++ [b]) ∧
    (s.rst = true → (portsOut draw (pinsOf a s) s t).txData = none)

/-! ## Streams -/

/-- R180 (a): any number of noise bytes in a row is consumed with no other effect. -/
def Obligations.NoiseRunsAreDiscarded : Prop :=
  ∀ (bs : List Byte) (rest : List Symbol) (s : State), s.rst = false → s.rdy = false →
    s.st = .awaitingControl → s.idx = 0 → (∀ b ∈ bs, b ≠ 0x01 ∧ b ≠ 0x04) →
    s.rxq = bs.map byteSymbol ++ rest →
    runSteps bs.length s = .next { s with rxq := rest, rxn := s.rxn + bs.length }

/-- R150: the nine steps of a block have the composite's net effect, and before the ninth nothing of it shows but
`rxn`. -/
def Obligations.NineStepsAreOneBlock : Prop :=
  ∀ (f : Frame) (rest : List Symbol) (s : State), s.rst = false → s.rdy = false →
    s.st = .awaitingControl → s.idx = 0 → s.msgCap = none → s.rxq = f.symbols ++ rest →
    (∃ t, runSteps 9 s = .next t ∧ t.st = .awaitingControl ∧ t.idx = 0 ∧ t.rdy = false ∧
      t.rxn = s.rxn + 9 ∧ t.rxq = rest ∧
      (t.tx, t.msg.bytes) =
        if f.c.toNat ≠ 255 - f.n.toNat then (s.tx ++ [0x15], s.msg.bytes)
        else if f.k.toNat ≠ (f.p0.toNat + f.p1.toNat + f.p2.toNat + f.p3.toNat + f.p4.toNat) % 256 then
          (s.tx ++ [0x15], s.msg.bytes)
        else (s.tx ++ [0x06], s.msg.bytes ++ [f.p0, f.p1, f.p2, f.p3, f.p4].filter (fun x => x != 0x03))) ∧
    (∀ j u, j < 9 → runSteps j s = .next u →
      u.tx = s.tx ∧ u.msg = s.msg ∧ u.outcome = .running ∧ u.rxn = s.rxn + j)

/-- R106, R150, R222: over whole units the byte machine and the unit machine agree: on refusals, and on the observation
and the sequencing state of the next one, with any capacity. -/
def Obligations.ByteMachineRefinesUnitMachine : Prop :=
  ∀ (s : State) (u : StreamUnit) (rest : List Symbol), s.rst = false → s.rdy = false →
    s.st = .awaitingControl → s.idx = 0 → cutUnit s.rxq = some (u, rest) →
    (∀ r, runSteps u.length s = .refused r ↔ runUnit u s = .refused r) ∧
    (∀ t, runUnit u s = .next t →
      ∃ v, runSteps u.length s = .next v ∧ v.observe = t.observe ∧ v.st = t.st ∧ v.idx = t.idx ∧
        v.rdy = t.rdy ∧ v.rxq = rest ∧ t.rxq = rest)

/-- R222 (a), (b): a block that meets `Err` at offset `j`, 1 to 8, ends in `IoFailure` with nothing emitted and the
Message unchanged, whatever its earlier bytes. -/
def Obligations.TruncatedBlockFailsSilently : Prop :=
  ∀ (bs : List Byte) (d : Byte) (rest : List Symbol) (s : State), s.rst = false → s.rdy = false →
    s.st = .awaitingControl → s.idx = 0 → bs.length ≤ 7 →
    s.rxq = byteSymbol 0x01 :: (bs.map byteSymbol ++ errSymbol d :: rest) →
    ∃ t, runSteps (bs.length + 2) s = .next t ∧ t.st = .failed ∧ t.idx = 0 ∧ t.tx = s.tx ∧
      t.msg = s.msg ∧ t.rxn = s.rxn + (bs.length + 2) ∧ t.rxq = rest ∧ t.failFlag = true

/-- S2: a valid block with its checksum byte or its complement replaced by any other value gets NAK and leaves the
Message unchanged. -/
def Obligations.CorruptedBlockIsRejected : Prop :=
  ∀ (f g : Frame) (rest : List Symbol) (s : State), frameValid f = true →
    ((∃ k, k ≠ f.k ∧ g = { f with k := k }) ∨ ∃ c, c ≠ f.c ∧ g = { f with c := c }) →
    s.rst = false → s.rdy = false → s.st = .awaitingControl → s.idx = 0 → s.rxq = g.symbols ++ rest →
    ∃ t, runSteps 9 s = .next t ∧ t.tx = s.tx ++ [0x15] ∧ t.msg = s.msg ∧ t.st = .awaitingControl

/-- R152: the sequence number is checked against nothing but its complement: two valid blocks that differ only in it
have the same effect. -/
def Obligations.SequenceNumberIsNotChecked : Prop :=
  ∀ (f : Frame) (n : Byte) (rest : List Symbol) (s t : State), frameValid f = true →
    s.rst = false → s.rdy = false → s.st = .awaitingControl → s.idx = 0 → s.msgCap = none →
    runSteps 9 { s with rxq := f.symbols ++ rest } = .next t →
    ∃ u, runSteps 9 { s with rxq := ({ f with n := n, c := 255 - n } : Frame).symbols ++ rest } = .next u ∧
      u.observe = t.observe ∧ u.rxq = t.rxq ∧ t.tx = s.tx ++ [0x06]

/-- R154: two valid blocks in a row are both appended, in arrival order, whatever their sequence bytes and also when
they are one block sent twice. -/
def Obligations.ValidBlocksAppendedInArrivalOrder : Prop :=
  ∀ (f g : Frame) (rest : List Symbol) (s : State), frameValid f = true → frameValid g = true →
    s.rst = false → s.rdy = false → s.st = .awaitingControl → s.idx = 0 → s.msgCap = none →
    s.rxq = f.symbols ++ (g.symbols ++ rest) →
    ∃ t, runSteps 18 s = .next t ∧ t.tx = s.tx ++ [0x06, 0x06] ∧ t.rxq = rest ∧
      t.msg.bytes = s.msg.bytes ++ stripPadding f.payload ++ stripPadding g.payload

/-- S2, R118: any message without 0x03, cut into padded blocks of five and sent from any number, is rebuilt exactly, one
ACK for each block; after reset and with a closing EOT the session ends with that Message. -/
def Obligations.SentMessageIsRebuilt : Prop :=
  (∀ (text : List Byte) (n0 : Byte) (rest : List Symbol) (s : State), (∀ b ∈ text, b ≠ 0x03) →
    s.rst = false → s.rdy = false → s.st = .awaitingControl → s.idx = 0 → s.msgCap = none →
    s.rxq = send n0 text ++ rest →
    ∃ t, runSteps (send n0 text).length s = .next t ∧ t.msg.bytes = s.msg.bytes ++ text ∧
      t.tx = s.tx ++ List.replicate ((text.length + 4) / 5) 0x06 ∧ t.st = .awaitingControl ∧ t.idx = 0 ∧
      t.rdy = false ∧ t.rxq = rest) ∧
  (∀ (text : List Byte) (n0 : Byte), (∀ b ∈ text, b ≠ 0x03) →
    ∃ t, runSteps ((send n0 text).length + 2)
        { State.reset with rxq := send n0 text ++ [byteSymbol 0x04] } = .next t ∧
      t.msg.bytes = text ∧ t.outcome = .normalTermination ∧
      t.tx = 0x15 :: (List.replicate ((text.length + 4) / 5) 0x06 ++ [0x06]))
end

