-- ==== Sys2Proof/Laws/Decode.lean ====
section
/-! SUPPORT. What the decoder answers for every symbol (R105, R107, 30_encoding.md). Each fact is checked over all
512 symbols once, here. -/

namespace Sys2Proof

/-- Within a block every symbol is a body byte or `RXERR` (R105). -/
theorem decodeRx_body (x : Symbol) :
    decodeRx .body x = .ok (if x.err then .rxerr x.data else .bodybyte x.data) := by
  have h : ∀ x : Symbol,
      decodeRx .body x = .ok (if x.err then .rxerr x.data else .bodybyte x.data) := by
    set_option maxRecDepth 100000 in decide
  exact h x

theorem decodeRx_control_err (x : Symbol) (he : x.err = true) :
    decodeRx .control x = .ok (.rxerr x.data) := by
  have h : ∀ x : Symbol, x.err = true → decodeRx .control x = .ok (.rxerr x.data) := by
    set_option maxRecDepth 100000 in decide
  exact h x he

theorem decodeRx_control_eot : decodeRx .control 0x004 = .ok .eot := by decide

theorem decodeRx_control_block : decodeRx .control 0x001 = .ok .block := by decide

/-- Every byte but SOH and EOT is noise, and the row carries the byte (R107). -/
theorem decodeRx_control_noise (x : Symbol) (he : x.err = false) (h4 : x ≠ 0x004) (h1 : x ≠ 0x001) :
    ∃ i, decodeRx .control x = .ok i ∧ i.noiseByte = some x.data := by
  have h : ∀ x : Symbol, x.err = false → x ≠ 0x004 → x ≠ 0x001 →
      (decodeRx .control x).toOption.bind Instr.noiseByte = some x.data := by
    set_option maxRecDepth 100000 in decide
  have hx := h x he h4 h1
  cases hd : decodeRx .control x with
  | ok i => exact ⟨i, rfl, by simpa [hd, Except.toOption] using hx⟩
  | error e => simp [hd, Except.toOption] at hx

/-- The four classes of R107 cover every symbol. -/
theorem decodeRx_control_cases (x : Symbol) :
    (x = 0x004 ∧ decodeRx .control x = .ok .eot) ∨
    (x = 0x001 ∧ decodeRx .control x = .ok .block) ∨
    (x.err = true ∧ decodeRx .control x = .ok (.rxerr x.data)) ∨
    (x.err = false ∧ x ≠ 0x004 ∧ x ≠ 0x001 ∧
      ∃ i, decodeRx .control x = .ok i ∧ i.noiseByte = some x.data) := by
  by_cases h4 : x = 0x004
  · exact .inl ⟨h4, h4 ▸ decodeRx_control_eot⟩
  by_cases h1 : x = 0x001
  · exact .inr (.inl ⟨h1, h1 ▸ decodeRx_control_block⟩)
  cases he : x.err with
  | true => exact .inr (.inr (.inl ⟨rfl, decodeRx_control_err x he⟩))
  | false => exact .inr (.inr (.inr ⟨rfl, h4, h1, decodeRx_control_noise x he h4 h1⟩))

@[simp] theorem byteSymbol_err (b : Byte) : (byteSymbol b).err = false := by
  simp [Symbol.err, byteSymbol]

@[simp] theorem byteSymbol_data (b : Byte) : (byteSymbol b).data = b := by
  simp [Symbol.data, byteSymbol]

@[simp] theorem errSymbol_err (d : Byte) : (errSymbol d).err = true := by
  simp [Symbol.err, errSymbol]

@[simp] theorem errSymbol_data (d : Byte) : (errSymbol d).data = d := by
  have h : ∀ d : Byte, (errSymbol d).data = d := by set_option maxRecDepth 100000 in decide
  exact h d

/-- A byte symbol is determined by its data (R61). -/
theorem eq_byteSymbol_of_err (x : Symbol) (h : x.err = false) : x = byteSymbol x.data := by
  have h' : ∀ x : Symbol, x.err = false → x = byteSymbol x.data := by
    set_option maxRecDepth 100000 in decide
  exact h' x h

end Sys2Proof
end

