-- ==== Sys2Proof/Laws/Memory.lean ====
section
/-! SUPPORT. The laws of the Message store: what an append does to the sequence, to the length, to every
address, and that it keeps the canonical form. -/

namespace Sys2Proof.Machine

@[simp] theorem Memory.bytes_nil : Memory.bytes [] = [] := rfl

@[simp] theorem Memory.mlen_nil : Memory.mlen [] = 0 := rfl

@[simp] theorem Memory.bytes_cellsFrom (a : Nat) (bs : List Byte) :
    (Memory.cellsFrom a bs).map Prod.snd = bs := by
  induction bs generalizing a with
  | nil => rfl
  | cons b bs ih => simp [Memory.cellsFrom, ih]

@[simp] theorem Memory.length_cellsFrom (a : Nat) (bs : List Byte) :
    (Memory.cellsFrom a bs).length = bs.length := by
  induction bs generalizing a with
  | nil => rfl
  | cons b bs ih => simp [Memory.cellsFrom, ih]

theorem Memory.addresses_cellsFrom (a : Nat) (bs : List Byte) :
    (Memory.cellsFrom a bs).map Prod.fst = List.range' a bs.length := by
  induction bs generalizing a with
  | nil => rfl
  | cons b bs ih => simp [Memory.cellsFrom, ih, List.range'_succ]

@[simp] theorem Memory.bytes_append (m : Memory) (bs : List Byte) :
    (m.append bs).bytes = m.bytes ++ bs := by
  simp [Memory.bytes, Memory.append]

@[simp] theorem Memory.mlen_append (m : Memory) (bs : List Byte) :
    (m.append bs).mlen = m.mlen + bs.length := by
  simp [Memory.mlen, Memory.append]

theorem Memory.length_bytes (m : Memory) : m.bytes.length = m.mlen := by
  simp [Memory.bytes, Memory.mlen]

theorem Memory.wf_iff (m : Memory) : m.wf = true ↔ m.map Prod.fst = List.range m.length := by
  simp [Memory.wf]

/-- The canonical form is kept by the one operation that writes the store. -/
theorem Memory.wf_append (m : Memory) (bs : List Byte) (h : m.wf = true) : (m.append bs).wf = true := by
  rw [Memory.wf_iff] at h ⊢
  have happ := List.range'_append_1 (s := 0) (m := m.length) (n := bs.length)
  rw [Nat.zero_add] at happ
  simp [Memory.append, Memory.mlen, Memory.addresses_cellsFrom, h, List.range_eq_range', happ]

@[simp] theorem Memory.wf_nil : Memory.wf [] = true := rfl

/-- The canonical form leaves one memory for each sequence of bytes. -/
theorem Memory.eq_of_wf_of_bytes (m n : Memory) (hm : m.wf = true) (hn : n.wf = true)
    (h : m.bytes = n.bytes) : m = n := by
  have hl : m.length = n.length := by simpa [Memory.bytes] using congrArg List.length h
  have h1 : m.map Prod.fst = n.map Prod.fst := by
    rw [(Memory.wf_iff m).mp hm, (Memory.wf_iff n).mp hn, hl]
  have hz : ∀ l : Memory, l = (l.map Prod.fst).zip (l.map Prod.snd) := by
    intro l
    induction l with
    | nil => rfl
    | cons c l ih => simpa using ih
  rw [hz m, hz n, h1, show m.map Prod.snd = _ from h, Memory.bytes]

theorem Memory.read_cellsFrom (k a : Nat) (bs : List Byte) :
    (Memory.cellsFrom k bs).lookup a = if k ≤ a then bs[a - k]? else none := by
  induction bs generalizing k with
  | nil => simp [Memory.cellsFrom]
  | cons b bs ih =>
    rw [Memory.cellsFrom, List.lookup_cons, ih]
    rcases Nat.lt_trichotomy k a with h | h | h
    · have h1 : (a == k) = false := by simp; omega
      have h2 : a - k = (a - (k + 1)) + 1 := by omega
      simp [h1, h2, show k + 1 ≤ a from h, show k ≤ a by omega]
    · simp [h]
    · have h1 : (a == k) = false := by simp; omega
      simp [h1, show ¬ k + 1 ≤ a by omega, show ¬ k ≤ a by omega]

theorem Memory.eq_cellsFrom (m : Memory) (h : m.wf = true) : m = Memory.cellsFrom 0 m.bytes := by
  have hl : (Memory.cellsFrom 0 m.bytes).length = m.length := by simp [Memory.bytes]
  apply Memory.eq_of_wf_of_bytes m _ h
  · simp [Memory.wf_iff, Memory.addresses_cellsFrom, Memory.bytes, List.range_eq_range']
  · simp [Memory.bytes]

/-- In canonical form the byte at an address is the element at that position (R69). -/
theorem Memory.read_eq (m : Memory) (h : m.wf = true) (a : Nat) : m.read a = m.bytes[a]? := by
  rw [Memory.read]
  conv_lhs => rw [Memory.eq_cellsFrom m h]
  simp [Memory.read_cellsFrom]

end Sys2Proof.Machine
end

