-- ==== Sys2Proof/Laws/State.lean ====
section
/-! SUPPORT. One lemma per field per named update of State, each true by rfl. -/

namespace Sys2Proof.Machine

variable (s : State)

@[simp] theorem State.msgAppend_st (bs : List Byte) : (s.msgAppend bs).st = s.st := rfl
@[simp] theorem State.msgAppend_rdy (bs : List Byte) : (s.msgAppend bs).rdy = s.rdy := rfl
@[simp] theorem State.msgAppend_idx (bs : List Byte) : (s.msgAppend bs).idx = s.idx := rfl
@[simp] theorem State.msgAppend_seq (bs : List Byte) : (s.msgAppend bs).seq = s.seq := rfl
@[simp] theorem State.msgAppend_cmp (bs : List Byte) : (s.msgAppend bs).cmp = s.cmp := rfl
@[simp] theorem State.msgAppend_sum (bs : List Byte) : (s.msgAppend bs).sum = s.sum := rfl
@[simp] theorem State.msgAppend_pay (bs : List Byte) : (s.msgAppend bs).pay = s.pay := rfl
@[simp] theorem State.msgAppend_msg (bs : List Byte) : (s.msgAppend bs).msg = s.msg.append bs := rfl
@[simp] theorem State.msgAppend_tx (bs : List Byte) : (s.msgAppend bs).tx = s.tx := rfl
@[simp] theorem State.msgAppend_rxn (bs : List Byte) : (s.msgAppend bs).rxn = s.rxn := rfl
@[simp] theorem State.msgAppend_rxq (bs : List Byte) : (s.msgAppend bs).rxq = s.rxq := rfl
@[simp] theorem State.msgAppend_rst (bs : List Byte) : (s.msgAppend bs).rst = s.rst := rfl
@[simp] theorem State.msgAppend_msgCap (bs : List Byte) : (s.msgAppend bs).msgCap = s.msgCap := rfl

@[simp] theorem State.txWrite_st (b : Byte) : (s.txWrite b).st = s.st := rfl
@[simp] theorem State.txWrite_rdy (b : Byte) : (s.txWrite b).rdy = s.rdy := rfl
@[simp] theorem State.txWrite_idx (b : Byte) : (s.txWrite b).idx = s.idx := rfl
@[simp] theorem State.txWrite_seq (b : Byte) : (s.txWrite b).seq = s.seq := rfl
@[simp] theorem State.txWrite_cmp (b : Byte) : (s.txWrite b).cmp = s.cmp := rfl
@[simp] theorem State.txWrite_sum (b : Byte) : (s.txWrite b).sum = s.sum := rfl
@[simp] theorem State.txWrite_pay (b : Byte) : (s.txWrite b).pay = s.pay := rfl
@[simp] theorem State.txWrite_msg (b : Byte) : (s.txWrite b).msg = s.msg := rfl
@[simp] theorem State.txWrite_tx (b : Byte) : (s.txWrite b).tx = s.tx ++ [b] := rfl
@[simp] theorem State.txWrite_rxn (b : Byte) : (s.txWrite b).rxn = s.rxn := rfl
@[simp] theorem State.txWrite_rxq (b : Byte) : (s.txWrite b).rxq = s.rxq := rfl
@[simp] theorem State.txWrite_rst (b : Byte) : (s.txWrite b).rst = s.rst := rfl
@[simp] theorem State.txWrite_msgCap (b : Byte) : (s.txWrite b).msgCap = s.msgCap := rfl

@[simp] theorem State.popRx_st : s.popRx.st = s.st := rfl
@[simp] theorem State.popRx_rdy : s.popRx.rdy = s.rdy := rfl
@[simp] theorem State.popRx_idx : s.popRx.idx = s.idx := rfl
@[simp] theorem State.popRx_seq : s.popRx.seq = s.seq := rfl
@[simp] theorem State.popRx_cmp : s.popRx.cmp = s.cmp := rfl
@[simp] theorem State.popRx_sum : s.popRx.sum = s.sum := rfl
@[simp] theorem State.popRx_pay : s.popRx.pay = s.pay := rfl
@[simp] theorem State.popRx_msg : s.popRx.msg = s.msg := rfl
@[simp] theorem State.popRx_tx : s.popRx.tx = s.tx := rfl
@[simp] theorem State.popRx_rxn : s.popRx.rxn = s.rxn + 1 := rfl
@[simp] theorem State.popRx_rxq : s.popRx.rxq = s.rxq.tail := rfl
@[simp] theorem State.popRx_rst : s.popRx.rst = s.rst := rfl
@[simp] theorem State.popRx_msgCap : s.popRx.msgCap = s.msgCap := rfl

@[simp] theorem State.goto_st (t : St) (i : BitVec 4) : (s.goto t i).st = t := rfl
@[simp] theorem State.goto_rdy (t : St) (i : BitVec 4) : (s.goto t i).rdy = s.rdy := rfl
@[simp] theorem State.goto_idx (t : St) (i : BitVec 4) : (s.goto t i).idx = i := rfl
@[simp] theorem State.goto_seq (t : St) (i : BitVec 4) : (s.goto t i).seq = s.seq := rfl
@[simp] theorem State.goto_cmp (t : St) (i : BitVec 4) : (s.goto t i).cmp = s.cmp := rfl
@[simp] theorem State.goto_sum (t : St) (i : BitVec 4) : (s.goto t i).sum = s.sum := rfl
@[simp] theorem State.goto_pay (t : St) (i : BitVec 4) : (s.goto t i).pay = s.pay := rfl
@[simp] theorem State.goto_msg (t : St) (i : BitVec 4) : (s.goto t i).msg = s.msg := rfl
@[simp] theorem State.goto_tx (t : St) (i : BitVec 4) : (s.goto t i).tx = s.tx := rfl
@[simp] theorem State.goto_rxn (t : St) (i : BitVec 4) : (s.goto t i).rxn = s.rxn := rfl
@[simp] theorem State.goto_rxq (t : St) (i : BitVec 4) : (s.goto t i).rxq = s.rxq := rfl
@[simp] theorem State.goto_rst (t : St) (i : BitVec 4) : (s.goto t i).rst = s.rst := rfl
@[simp] theorem State.goto_msgCap (t : St) (i : BitVec 4) : (s.goto t i).msgCap = s.msgCap := rfl

@[simp] theorem State.clearRdy_st : s.clearRdy.st = s.st := rfl
@[simp] theorem State.clearRdy_rdy : s.clearRdy.rdy = false := rfl
@[simp] theorem State.clearRdy_idx : s.clearRdy.idx = s.idx := rfl
@[simp] theorem State.clearRdy_seq : s.clearRdy.seq = s.seq := rfl
@[simp] theorem State.clearRdy_cmp : s.clearRdy.cmp = s.cmp := rfl
@[simp] theorem State.clearRdy_sum : s.clearRdy.sum = s.sum := rfl
@[simp] theorem State.clearRdy_pay : s.clearRdy.pay = s.pay := rfl
@[simp] theorem State.clearRdy_msg : s.clearRdy.msg = s.msg := rfl
@[simp] theorem State.clearRdy_tx : s.clearRdy.tx = s.tx := rfl
@[simp] theorem State.clearRdy_rxn : s.clearRdy.rxn = s.rxn := rfl
@[simp] theorem State.clearRdy_rxq : s.clearRdy.rxq = s.rxq := rfl
@[simp] theorem State.clearRdy_rst : s.clearRdy.rst = s.rst := rfl
@[simp] theorem State.clearRdy_msgCap : s.clearRdy.msgCap = s.msgCap := rfl

@[simp] theorem State.setSeq_st (b : Byte) : (s.setSeq b).st = s.st := rfl
@[simp] theorem State.setSeq_rdy (b : Byte) : (s.setSeq b).rdy = s.rdy := rfl
@[simp] theorem State.setSeq_idx (b : Byte) : (s.setSeq b).idx = s.idx := rfl
@[simp] theorem State.setSeq_seq (b : Byte) : (s.setSeq b).seq = b := rfl
@[simp] theorem State.setSeq_cmp (b : Byte) : (s.setSeq b).cmp = s.cmp := rfl
@[simp] theorem State.setSeq_sum (b : Byte) : (s.setSeq b).sum = s.sum := rfl
@[simp] theorem State.setSeq_pay (b : Byte) : (s.setSeq b).pay = s.pay := rfl
@[simp] theorem State.setSeq_msg (b : Byte) : (s.setSeq b).msg = s.msg := rfl
@[simp] theorem State.setSeq_tx (b : Byte) : (s.setSeq b).tx = s.tx := rfl
@[simp] theorem State.setSeq_rxn (b : Byte) : (s.setSeq b).rxn = s.rxn := rfl
@[simp] theorem State.setSeq_rxq (b : Byte) : (s.setSeq b).rxq = s.rxq := rfl
@[simp] theorem State.setSeq_rst (b : Byte) : (s.setSeq b).rst = s.rst := rfl
@[simp] theorem State.setSeq_msgCap (b : Byte) : (s.setSeq b).msgCap = s.msgCap := rfl

@[simp] theorem State.setCmp_st (b : Byte) : (s.setCmp b).st = s.st := rfl
@[simp] theorem State.setCmp_rdy (b : Byte) : (s.setCmp b).rdy = s.rdy := rfl
@[simp] theorem State.setCmp_idx (b : Byte) : (s.setCmp b).idx = s.idx := rfl
@[simp] theorem State.setCmp_seq (b : Byte) : (s.setCmp b).seq = s.seq := rfl
@[simp] theorem State.setCmp_cmp (b : Byte) : (s.setCmp b).cmp = b := rfl
@[simp] theorem State.setCmp_sum (b : Byte) : (s.setCmp b).sum = s.sum := rfl
@[simp] theorem State.setCmp_pay (b : Byte) : (s.setCmp b).pay = s.pay := rfl
@[simp] theorem State.setCmp_msg (b : Byte) : (s.setCmp b).msg = s.msg := rfl
@[simp] theorem State.setCmp_tx (b : Byte) : (s.setCmp b).tx = s.tx := rfl
@[simp] theorem State.setCmp_rxn (b : Byte) : (s.setCmp b).rxn = s.rxn := rfl
@[simp] theorem State.setCmp_rxq (b : Byte) : (s.setCmp b).rxq = s.rxq := rfl
@[simp] theorem State.setCmp_rst (b : Byte) : (s.setCmp b).rst = s.rst := rfl
@[simp] theorem State.setCmp_msgCap (b : Byte) : (s.setCmp b).msgCap = s.msgCap := rfl

@[simp] theorem State.setSum_st (b : Byte) : (s.setSum b).st = s.st := rfl
@[simp] theorem State.setSum_rdy (b : Byte) : (s.setSum b).rdy = s.rdy := rfl
@[simp] theorem State.setSum_idx (b : Byte) : (s.setSum b).idx = s.idx := rfl
@[simp] theorem State.setSum_seq (b : Byte) : (s.setSum b).seq = s.seq := rfl
@[simp] theorem State.setSum_cmp (b : Byte) : (s.setSum b).cmp = s.cmp := rfl
@[simp] theorem State.setSum_sum (b : Byte) : (s.setSum b).sum = b := rfl
@[simp] theorem State.setSum_pay (b : Byte) : (s.setSum b).pay = s.pay := rfl
@[simp] theorem State.setSum_msg (b : Byte) : (s.setSum b).msg = s.msg := rfl
@[simp] theorem State.setSum_tx (b : Byte) : (s.setSum b).tx = s.tx := rfl
@[simp] theorem State.setSum_rxn (b : Byte) : (s.setSum b).rxn = s.rxn := rfl
@[simp] theorem State.setSum_rxq (b : Byte) : (s.setSum b).rxq = s.rxq := rfl
@[simp] theorem State.setSum_rst (b : Byte) : (s.setSum b).rst = s.rst := rfl
@[simp] theorem State.setSum_msgCap (b : Byte) : (s.setSum b).msgCap = s.msgCap := rfl

@[simp] theorem State.setPay_st (i : Fin 5) (b : Byte) : (s.setPay i b).st = s.st := rfl
@[simp] theorem State.setPay_rdy (i : Fin 5) (b : Byte) : (s.setPay i b).rdy = s.rdy := rfl
@[simp] theorem State.setPay_idx (i : Fin 5) (b : Byte) : (s.setPay i b).idx = s.idx := rfl
@[simp] theorem State.setPay_seq (i : Fin 5) (b : Byte) : (s.setPay i b).seq = s.seq := rfl
@[simp] theorem State.setPay_cmp (i : Fin 5) (b : Byte) : (s.setPay i b).cmp = s.cmp := rfl
@[simp] theorem State.setPay_sum (i : Fin 5) (b : Byte) : (s.setPay i b).sum = s.sum := rfl
@[simp] theorem State.setPay_pay (i : Fin 5) (b : Byte) : (s.setPay i b).pay = s.pay.set b i := rfl
@[simp] theorem State.setPay_msg (i : Fin 5) (b : Byte) : (s.setPay i b).msg = s.msg := rfl
@[simp] theorem State.setPay_tx (i : Fin 5) (b : Byte) : (s.setPay i b).tx = s.tx := rfl
@[simp] theorem State.setPay_rxn (i : Fin 5) (b : Byte) : (s.setPay i b).rxn = s.rxn := rfl
@[simp] theorem State.setPay_rxq (i : Fin 5) (b : Byte) : (s.setPay i b).rxq = s.rxq := rfl
@[simp] theorem State.setPay_rst (i : Fin 5) (b : Byte) : (s.setPay i b).rst = s.rst := rfl
@[simp] theorem State.setPay_msgCap (i : Fin 5) (b : Byte) : (s.setPay i b).msgCap = s.msgCap := rfl

@[simp] theorem State.takeReset_st : s.takeReset.st = .awaitingControl := rfl
@[simp] theorem State.takeReset_rdy : s.takeReset.rdy = true := rfl
@[simp] theorem State.takeReset_idx : s.takeReset.idx = 0 := rfl
@[simp] theorem State.takeReset_seq : s.takeReset.seq = s.seq := rfl
@[simp] theorem State.takeReset_cmp : s.takeReset.cmp = s.cmp := rfl
@[simp] theorem State.takeReset_sum : s.takeReset.sum = s.sum := rfl
@[simp] theorem State.takeReset_pay : s.takeReset.pay = s.pay := rfl
@[simp] theorem State.takeReset_msg : s.takeReset.msg = [] := rfl
@[simp] theorem State.takeReset_tx : s.takeReset.tx = [] := rfl
@[simp] theorem State.takeReset_rxn : s.takeReset.rxn = 0 := rfl
@[simp] theorem State.takeReset_rxq : s.takeReset.rxq = s.rxq := rfl
@[simp] theorem State.takeReset_rst : s.takeReset.rst = s.rst := rfl
@[simp] theorem State.takeReset_msgCap : s.takeReset.msgCap = s.msgCap := rfl

@[simp] theorem State.arrive_st (x : Symbol) : (s.arrive x).st = s.st := rfl
@[simp] theorem State.arrive_rdy (x : Symbol) : (s.arrive x).rdy = s.rdy := rfl
@[simp] theorem State.arrive_idx (x : Symbol) : (s.arrive x).idx = s.idx := rfl
@[simp] theorem State.arrive_seq (x : Symbol) : (s.arrive x).seq = s.seq := rfl
@[simp] theorem State.arrive_cmp (x : Symbol) : (s.arrive x).cmp = s.cmp := rfl
@[simp] theorem State.arrive_sum (x : Symbol) : (s.arrive x).sum = s.sum := rfl
@[simp] theorem State.arrive_pay (x : Symbol) : (s.arrive x).pay = s.pay := rfl
@[simp] theorem State.arrive_msg (x : Symbol) : (s.arrive x).msg = s.msg := rfl
@[simp] theorem State.arrive_tx (x : Symbol) : (s.arrive x).tx = s.tx := rfl
@[simp] theorem State.arrive_rxn (x : Symbol) : (s.arrive x).rxn = s.rxn := rfl
@[simp] theorem State.arrive_rxq (x : Symbol) : (s.arrive x).rxq = s.rxq ++ [x] := rfl
@[simp] theorem State.arrive_rst (x : Symbol) : (s.arrive x).rst = s.rst := rfl
@[simp] theorem State.arrive_msgCap (x : Symbol) : (s.arrive x).msgCap = s.msgCap := rfl

@[simp] theorem State.setRst_st (l : Bool) : (s.setRst l).st = s.st := rfl
@[simp] theorem State.setRst_rdy (l : Bool) : (s.setRst l).rdy = s.rdy := rfl
@[simp] theorem State.setRst_idx (l : Bool) : (s.setRst l).idx = s.idx := rfl
@[simp] theorem State.setRst_seq (l : Bool) : (s.setRst l).seq = s.seq := rfl
@[simp] theorem State.setRst_cmp (l : Bool) : (s.setRst l).cmp = s.cmp := rfl
@[simp] theorem State.setRst_sum (l : Bool) : (s.setRst l).sum = s.sum := rfl
@[simp] theorem State.setRst_pay (l : Bool) : (s.setRst l).pay = s.pay := rfl
@[simp] theorem State.setRst_msg (l : Bool) : (s.setRst l).msg = s.msg := rfl
@[simp] theorem State.setRst_tx (l : Bool) : (s.setRst l).tx = s.tx := rfl
@[simp] theorem State.setRst_rxn (l : Bool) : (s.setRst l).rxn = s.rxn := rfl
@[simp] theorem State.setRst_rxq (l : Bool) : (s.setRst l).rxq = s.rxq := rfl
@[simp] theorem State.setRst_rst (l : Bool) : (s.setRst l).rst = l := rfl
@[simp] theorem State.setRst_msgCap (l : Bool) : (s.setRst l).msgCap = s.msgCap := rfl

@[simp] theorem State.consume_st (n : Nat) : (s.consume n).st = s.st := rfl
@[simp] theorem State.consume_rdy (n : Nat) : (s.consume n).rdy = s.rdy := rfl
@[simp] theorem State.consume_idx (n : Nat) : (s.consume n).idx = s.idx := rfl
@[simp] theorem State.consume_seq (n : Nat) : (s.consume n).seq = s.seq := rfl
@[simp] theorem State.consume_cmp (n : Nat) : (s.consume n).cmp = s.cmp := rfl
@[simp] theorem State.consume_sum (n : Nat) : (s.consume n).sum = s.sum := rfl
@[simp] theorem State.consume_pay (n : Nat) : (s.consume n).pay = s.pay := rfl
@[simp] theorem State.consume_msg (n : Nat) : (s.consume n).msg = s.msg := rfl
@[simp] theorem State.consume_tx (n : Nat) : (s.consume n).tx = s.tx := rfl
@[simp] theorem State.consume_rxn (n : Nat) : (s.consume n).rxn = s.rxn + n := rfl
@[simp] theorem State.consume_rxq (n : Nat) : (s.consume n).rxq = s.rxq.drop n := rfl
@[simp] theorem State.consume_rst (n : Nat) : (s.consume n).rst = s.rst := rfl
@[simp] theorem State.consume_msgCap (n : Nat) : (s.consume n).msgCap = s.msgCap := rfl

@[simp] theorem State.stageFrame_st (f : Frame) : (s.stageFrame f).st = s.st := rfl
@[simp] theorem State.stageFrame_rdy (f : Frame) : (s.stageFrame f).rdy = s.rdy := rfl
@[simp] theorem State.stageFrame_idx (f : Frame) : (s.stageFrame f).idx = s.idx := rfl
@[simp] theorem State.stageFrame_seq (f : Frame) : (s.stageFrame f).seq = f.n := rfl
@[simp] theorem State.stageFrame_cmp (f : Frame) : (s.stageFrame f).cmp = f.c := rfl
@[simp] theorem State.stageFrame_sum (f : Frame) : (s.stageFrame f).sum = payloadSum f.p0 f.p1 f.p2 f.p3 f.p4 := rfl
@[simp] theorem State.stageFrame_pay (f : Frame) : (s.stageFrame f).pay = ⟨f.p0, f.p1, f.p2, f.p3, f.p4⟩ := rfl
@[simp] theorem State.stageFrame_msg (f : Frame) : (s.stageFrame f).msg = s.msg := rfl
@[simp] theorem State.stageFrame_tx (f : Frame) : (s.stageFrame f).tx = s.tx := rfl
@[simp] theorem State.stageFrame_rxn (f : Frame) : (s.stageFrame f).rxn = s.rxn := rfl
@[simp] theorem State.stageFrame_rxq (f : Frame) : (s.stageFrame f).rxq = s.rxq := rfl
@[simp] theorem State.stageFrame_rst (f : Frame) : (s.stageFrame f).rst = s.rst := rfl
@[simp] theorem State.stageFrame_msgCap (f : Frame) : (s.stageFrame f).msgCap = s.msgCap := rfl

end Sys2Proof.Machine
end

