-- ==== Sys2Proof/Laws/Ops.lean ====
section
/-! SUPPORT. One lemma per shared operation that says everything it can do. -/

namespace Sys2Proof.Machine

/-! ## Guards -/

theorem State.atControl_iff (s : State) :
    s.atControl = true ↔ s.rdy = false ∧ s.st = .awaitingControl ∧ s.idx = 0 := by
  simp [State.atControl, and_assoc]

theorem State.inBody_iff (s : State) :
    s.inBody = true ↔ s.rdy = false ∧ s.st = .readingBlockBody ∧ 1 ≤ s.idx ∧ s.idx ≤ 8 := by
  simp [State.inBody, and_assoc]

/-- A state the spec calls reachable that owes no NAK is at control, in a body, or ended. -/
theorem State.seqOk_cases (s : State) (hok : s.seqOk = true) (hr : s.rdy = false) :
    s.atControl = true ∨ s.inBody = true ∨ (s.st = .done ∧ s.idx = 0) ∨ (s.st = .failed ∧ s.idx = 0) := by
  cases hst : s.st <;> simp_all [State.seqOk, State.atControl, State.inBody]

theorem whenDecoded_next {here : Bool} {r : Result} {t : State} :
    whenDecoded here r = .next t ↔ here = true ∧ r = .next t := by
  cases here <;> simp [whenDecoded]

@[simp] theorem whenDecoded_true (r : Result) : whenDecoded true r = r := rfl

@[simp] theorem whenDecoded_false (r : Result) : whenDecoded false r = .refused .notDecodedHere := rfl

/-! ## Operands -/

/-- The adder is addition of bytes: the dropped carry is the wrap (R151 (a)). -/
@[simp] theorem addMod256_eq (a b : Byte) : addMod256 a b = a + b := by
  apply BitVec.eq_of_toNat_eq
  simp [addMod256, BitVec.toNat_add]

theorem payloadSum_eq (p0 p1 p2 p3 p4 : Byte) :
    payloadSum p0 p1 p2 p3 p4 = p0 + p1 + p2 + p3 + p4 := by
  simp [payloadSum]

/-- A body offset names exactly one field (R103). -/
theorem fieldAt_cases (i : BitVec 4) (h1 : 1 ≤ i) (h8 : i ≤ 8) :
    (i = 1 ∧ fieldAt i = some .sequence) ∨ (i = 2 ∧ fieldAt i = some .complement) ∨
    (∃ j : Fin 5, i = BitVec.ofNat 4 (3 + j.val) ∧ fieldAt i = some (.payload j)) ∨
    (i = 8 ∧ fieldAt i = some .checksum) := by
  revert i
  decide

theorem fieldAt_payload (j : Fin 5) : fieldAt (BitVec.ofNat 4 (3 + j.val)) = some (.payload j) := by
  revert j
  decide

theorem PayRegs.get_set (p : PayRegs) (b : Byte) (i j : Fin 5) :
    (p.set b i).get j = if i = j then b else p.get j := by
  fin_cases i <;> fin_cases j <;> rfl

/-! ## The verdict -/

/-- Everything the accepting step does. -/
theorem accept_next {s t : State} (h : accept s = .next t) :
    s.fits (stripPadding s.pay.toList).length = true ∧
      t = ((s.msgAppend (stripPadding s.pay.toList)).txWrite Config.ACK).goto .awaitingControl 0 := by
  unfold accept at h
  split at h
  · exact ⟨‹_›, by simpa using h.symm⟩
  · cases h

/-- Everything the offset-8 step does: a NAK, or the accepting step when both checks pass. -/
theorem verdict_next {k : Byte} {s t : State} (h : verdict k s = .next t) :
    ((s.cmpOk = false ∨ s.sumOk k = false) ∧ t = (s.txWrite Config.NAK).goto .awaitingControl 0) ∨
    (s.cmpOk = true ∧ s.sumOk k = true ∧ accept s = .next t) := by
  unfold verdict at h
  split at h
  · exact .inl ⟨.inl ‹_›, by simpa [raise] using h.symm⟩
  split at h
  · exact .inl ⟨.inr ‹_›, by simpa [raise] using h.symm⟩
  · exact .inr ⟨by simpa using ‹¬ s.cmpOk = false›, by simpa using ‹¬ s.sumOk k = false›, h⟩

/-- No byte the filter lets through is padding (R147). -/
theorem stripPadding_ne (bs : List Byte) : ∀ b ∈ stripPadding bs, b ≠ Config.ETX := by
  intro b hb
  simpa [stripPadding] using (List.mem_filter.mp hb).2

theorem stripPadding_length_le (p : PayRegs) : (stripPadding p.toList).length ≤ 5 :=
  (List.length_filter_le _ _).trans (by simp [PayRegs.toList])

end Sys2Proof.Machine
end

