-- ==== Sys2Proof/Laws/PerInstr.lean ====
section
/-! SUPPORT. The family RowPattern: the word of every well-formed instruction lies in a row of the opcode table that
reads it back as that instruction (R107, R108, 30_encoding.md). -/

namespace Sys2Proof.Laws.RowPattern

/-- Some row of the instruction's context takes its word and reads the instruction from it; for the TX
direction, the TX decoder does. -/
def Statement (i : Instr) : Prop :=
  i.wf = true →
    match encode i with
    | .rx x => ∃ r ∈ rowsOf i.context, r.takes x = true ∧ r.read x.data = i
    | .tx b => decodeTx b = .ok i

/-- A byte in a row's pattern of data bits, sent as a byte symbol, is taken by the row. -/
theorem takes_of_inPattern (mask value : Byte) (read : Byte → Instr) (b : Byte)
    (h : inPattern mask value b = true) :
    (Row.mk (errSymbol mask) (byteSymbol value) read).takes (byteSymbol b) = true := by
  have hb : b &&& mask = value := by simpa [inPattern] using h
  simp only [Row.takes, beq_iff_eq, errSymbol, byteSymbol, ← hb]
  ext i hi
  by_cases h8 : i = 8
  · subst h8; simp
  · have hbit : (256#9).getLsbD i = false := by
      have : ∀ j : Fin 9, j.val ≠ 8 → (256#9).getLsbD j.val = false := by decide
      exact this ⟨i, hi⟩ h8
    simp [← BitVec.getLsbD_eq_getElem, hbit]

theorem eot : Statement .eot := fun _ =>
  ⟨⟨0x1FF, 0x004, fun _ => .eot⟩, .head _, by decide, rfl⟩

theorem block : Statement .block := fun _ =>
  ⟨⟨0x1FF, 0x001, fun _ => .block⟩, .tail _ (.head _), by decide, rfl⟩

theorem noise80 (b : Byte) : Statement (.noise80 b) := fun h =>
  ⟨⟨0x180, 0x080, .noise80⟩, .tail _ (.tail _ (.head _)),
    takes_of_inPattern 0x80 0x80 .noise80 b h, by simp⟩

theorem noise40 (b : Byte) : Statement (.noise40 b) := fun h =>
  ⟨⟨0x1C0, 0x040, .noise40⟩, .tail _ (.tail _ (.tail _ (.head _))),
    takes_of_inPattern 0xC0 0x40 .noise40 b h, by simp⟩

theorem noise20 (b : Byte) : Statement (.noise20 b) := fun h =>
  ⟨⟨0x1E0, 0x020, .noise20⟩, .tail _ (.tail _ (.tail _ (.tail _ (.head _)))),
    takes_of_inPattern 0xE0 0x20 .noise20 b h, by simp⟩

theorem noise10 (b : Byte) : Statement (.noise10 b) := fun h =>
  ⟨⟨0x1F0, 0x010, .noise10⟩, .tail _ (.tail _ (.tail _ (.tail _ (.tail _ (.head _))))),
    takes_of_inPattern 0xF0 0x10 .noise10 b h, by simp⟩

theorem noise08 (b : Byte) : Statement (.noise08 b) := fun h =>
  ⟨⟨0x1F8, 0x008, .noise08⟩, .tail _ (.tail _ (.tail _ (.tail _ (.tail _ (.tail _ (.head _)))))),
    takes_of_inPattern 0xF8 0x08 .noise08 b h, by simp⟩

theorem noise06 (b : Byte) : Statement (.noise06 b) := fun h =>
  ⟨⟨0x1FE, 0x006, .noise06⟩, .tail _ (.tail _ (.tail _ (.tail _ (.tail _ (.tail _ (.tail _ (.head _))))))),
    takes_of_inPattern 0xFE 0x06 .noise06 b h, by simp⟩

theorem noise05 : Statement .noise05 := fun _ =>
  ⟨⟨0x1FF, 0x005, fun _ => .noise05⟩, .tail _ (.tail _ (.tail _ (.tail _ (.tail _ (.tail _ (.tail _ (.tail _ (.head _)))))))), by decide, rfl⟩

theorem noise02 (b : Byte) : Statement (.noise02 b) := fun h =>
  ⟨⟨0x1FE, 0x002, .noise02⟩, .tail _ (.tail _ (.tail _ (.tail _ (.tail _ (.tail _ (.tail _ (.tail _ (.tail _ (.head _))))))))),
    takes_of_inPattern 0xFE 0x02 .noise02 b h, by simp⟩

theorem noise00 : Statement .noise00 := fun _ =>
  ⟨⟨0x1FF, 0x000, fun _ => .noise00⟩, .tail _ (.tail _ (.tail _ (.tail _ (.tail _ (.tail _ (.tail _ (.tail _ (.tail _ (.tail _ (.head _)))))))))), by decide, rfl⟩

theorem rxerr (d : Byte) : Statement (.rxerr d) := fun _ => by
  have h : ∀ d : Byte, (errSymbol d &&& 0x100 == 0x100) = true := by decide
  exact ⟨⟨0x100, 0x100, .rxerr⟩, by simp [rowsOf, Instr.context, controlRows], h d, by simp⟩

theorem bodybyte (b : Byte) : Statement (.bodybyte b) := fun _ => by
  have h : ∀ b : Byte, (byteSymbol b &&& 0x100 == 0x000) = true := by decide
  exact ⟨⟨0x100, 0x000, .bodybyte⟩, .head _, h b, by simp⟩

theorem ack : Statement .ack := fun _ => rfl

theorem nak : Statement .nak := fun _ => rfl

end Sys2Proof.Laws.RowPattern
end

