-- ==== Sys2Proof/Laws/Step.lean ====
section
/-! SUPPORT. What a step can do, said once: every way `step s` answers a next state, with the state before its symbol
was read, the symbol, and the next state written out. -/

namespace Sys2Proof.Machine

/-- The framer is out of reset and past its readiness NAK, in a state the spec calls reachable. -/
structure Active (s : State) : Prop where
  rst : s.rst = false
  rdy : s.rdy = false
  seqOk : s.seqOk = true

/-- The ways a step ends in a next state; one constructor per row of R31 (10_state.md), the reset edge and the
hold, each with the label of the step. -/
inductive StepCase (s t : State) : Prop
  /-- R260 -/
  | reset (hrst : s.rst = true) (hl : stepLabel s = none) (ht : t = s.takeReset)
  /-- R196 -/
  | ready (hrst : s.rst = false) (hok : s.seqOk = true) (hrdy : s.rdy = true) (hl : stepLabel s = some .ready)
      (ht : t = ready s)
  /-- waiting, or terminal: R62, R132, R224 -/
  | hold (ha : Active s) (hwhy : s.rxq = [] ∨ s.st = .done ∨ s.st = .failed) (hl : stepLabel s = none)
      (ht : t = s)
  /-- R130 -/
  | eot (ha : Active s) (hc : s.atControl = true) (xs : List Symbol) (hq : s.rxq = 0x004 :: xs)
      (hl : stepLabel s = some .eot)
      (ht : t = (s.popRx.txWrite Config.ACK).goto .done 0)
  /-- R140 -/
  | blockStart (ha : Active s) (hc : s.atControl = true) (xs : List Symbol) (hq : s.rxq = 0x001 :: xs)
      (hl : stepLabel s = some .blockStart)
      (ht : t = s.popRx.startBlock)
  /-- R180 -/
  | discard (ha : Active s) (hc : s.atControl = true) (x : Symbol) (xs : List Symbol) (hq : s.rxq = x :: xs)
      (he : x.err = false) (h4 : x ≠ 0x004) (h1 : x ≠ 0x001) (hl : stepLabel s = some .discard)
      (ht : t = s.popRx)
  /-- R222 -/
  | ioFailure (ha : Active s) (hc : s.atControl = true ∨ s.inBody = true) (x : Symbol) (xs : List Symbol)
      (hq : s.rxq = x :: xs) (he : x.err = true) (hl : stepLabel s = some .ioFailure)
      (ht : t = s.popRx.goto .failed 0)
  /-- R141 -/
  | sequence (ha : Active s) (hb : s.inBody = true) (hi : s.idx = 1) (x : Symbol) (xs : List Symbol)
      (hq : s.rxq = x :: xs) (he : x.err = false) (hl : stepLabel s = some .bodyByte)
      (ht : t = s.popRx.captureSeq x.data)
  /-- R142 -/
  | complement (ha : Active s) (hb : s.inBody = true) (hi : s.idx = 2) (x : Symbol) (xs : List Symbol)
      (hq : s.rxq = x :: xs) (he : x.err = false) (hl : stepLabel s = some .bodyByte)
      (ht : t = s.popRx.captureCmp x.data)
  /-- R143 -/
  | payload (ha : Active s) (hb : s.inBody = true) (j : Fin 5) (hi : s.idx = BitVec.ofNat 4 (3 + j.val))
      (x : Symbol) (xs : List Symbol) (hq : s.rxq = x :: xs) (he : x.err = false)
      (hl : stepLabel s = some .bodyByte)
      (ht : t = s.popRx.capturePay j x.data)
  /-- R220, R221 -/
  | reject (ha : Active s) (hb : s.inBody = true) (hi : s.idx = 8) (x : Symbol) (xs : List Symbol)
      (hq : s.rxq = x :: xs) (he : x.err = false) (hv : s.cmpOk = false ∨ s.sumOk x.data = false)
      (hl : stepLabel s = some (verdictLabel x.data s))
      (ht : t = (s.popRx.txWrite Config.NAK).goto .awaitingControl 0)
  /-- R148 -/
  | accept (ha : Active s) (hb : s.inBody = true) (hi : s.idx = 8) (x : Symbol) (xs : List Symbol)
      (hq : s.rxq = x :: xs) (he : x.err = false) (hc : s.cmpOk = true) (hs : s.sumOk x.data = true)
      (hf : s.fits (stripPadding s.pay.toList).length = true)
      (hl : stepLabel s = some .accept)
      (ht : t = ((s.popRx.msgAppend (stripPadding s.pay.toList)).txWrite Config.ACK).goto
        .awaitingControl 0)

/-- The meaning of every NOISE row (R180). -/
theorem exec_of_noiseByte {i : Instr} {b : Byte} (h : i.noiseByte = some b) (s : State) :
    exec i s = discardByte s := by
  cases i <;> first | rfl | simp [Instr.noiseByte] at h

/-- What executing a body byte can answer, by offset (R141 to R144). -/
theorem execBodybyte_next {b : Byte} {s t : State} (h : execBodybyte b s = .next t) :
    s.inBody = true ∧
      ((s.idx = 1 ∧ t = s.captureSeq b) ∨ (s.idx = 2 ∧ t = s.captureCmp b) ∨
       (∃ j : Fin 5, s.idx = BitVec.ofNat 4 (3 + j.val) ∧ t = s.capturePay j b) ∨
       (s.idx = 8 ∧ verdict b s = .next t)) := by
  obtain ⟨hb, h⟩ := whenDecoded_next.mp h
  refine ⟨hb, ?_⟩
  obtain ⟨-, -, h1, h8⟩ := (State.inBody_iff s).mp hb
  obtain ⟨hi, hf⟩ | ⟨hi, hf⟩ | ⟨j, hi, hf⟩ | ⟨hi, hf⟩ := fieldAt_cases s.idx h1 h8
  all_goals simp only [hf, Host.Outcome.next.injEq] at h
  · exact .inl ⟨hi, h.symm⟩
  · exact .inr (.inl ⟨hi, h.symm⟩)
  · exact .inr (.inr (.inl ⟨j, hi, h.symm⟩))
  · exact .inr (.inr (.inr ⟨hi, h⟩))

/-- Where a symbol is read, what the fetch gives at control. -/
theorem fetch_control {s : State} {x : Symbol} {xs : List Symbol} (hc : s.st = .awaitingControl)
    (hq : s.rxq = x :: xs) {i : Instr} (hd : decodeRx .control x = .ok i) : s.fetch = .instr i := by
  simp [State.fetch, State.context, hc, hq, hd]

theorem fetch_body {s : State} {x : Symbol} {xs : List Symbol} (hc : s.st = .readingBlockBody)
    (hq : s.rxq = x :: xs) :
    s.fetch = .instr (if x.err then .rxerr x.data else .bodybyte x.data) := by
  simp [State.fetch, State.context, hc, hq, decodeRx_body]

/-- A step of an active framer is the fetch followed by the meaning. -/
theorem step_active {s : State} (ha : Active s) :
    step s = match s.fetch with
      | .hold => .next s
      | .instr i => exec i s.popRx
      | .noRow => .refused .noTableRow := by
  cases hf : s.fetch <;> simp [step, ha.rst, ha.rdy, ha.seqOk, hf]

/-- The label of an active framer's step is that of the instruction it fetches. -/
theorem stepLabel_active {s : State} (ha : Active s) :
    stepLabel s = match s.fetch with
      | .hold => none
      | .instr i => instrLabel s i
      | .noRow => none := by
  cases hf : s.fetch <;> simp [stepLabel, ha.rst, ha.rdy, ha.seqOk, hf]

theorem instrLabel_of_noiseByte {i : Instr} {b : Byte} (h : i.noiseByte = some b) (s : State) :
    instrLabel s i = some .discard := by
  cases i <;> first | rfl | simp [Instr.noiseByte] at h

theorem verdictLabel_of_fail {k : Byte} {s : State} (h : s.cmpOk = false ∨ s.sumOk k = false) :
    verdictLabel k s = .framingError ∨ verdictLabel k s = .checksumError := by
  cases hc : s.cmpOk with
  | false => exact .inl (by simp [verdictLabel, hc])
  | true => exact .inr (by simp_all [verdictLabel])

theorem verdictLabel_of_pass {k : Byte} {s : State} (hc : s.cmpOk = true) (hs : s.sumOk k = true) :
    verdictLabel k s = .accept := by
  simp [verdictLabel, hc, hs]

theorem payloadOffset_ne_eight (j : Fin 5) : BitVec.ofNat 4 (3 + j.val) ≠ 8 := by
  revert j
  decide

@[simp] theorem atControl_popRx (s : State) : s.popRx.atControl = s.atControl := rfl
@[simp] theorem inBody_popRx (s : State) : s.popRx.inBody = s.inBody := rfl
@[simp] theorem cmpOk_popRx (s : State) : s.popRx.cmpOk = s.cmpOk := rfl
@[simp] theorem sumOk_popRx (k : Byte) (s : State) : s.popRx.sumOk k = s.sumOk k := rfl
@[simp] theorem fits_popRx (n : Nat) (s : State) : s.popRx.fits n = s.fits n := rfl

/-- Everything a step that answers a next state can do. -/
theorem step_cases {s t : State} (h : step s = .next t) : StepCase s t := by
  by_cases hrst : s.rst = true
  · exact .reset hrst (by simp [stepLabel, hrst]) (by simpa [step, hrst] using h.symm)
  have hrst : s.rst = false := by simpa using hrst
  by_cases hok : s.seqOk = true
  case neg => simp [step, hrst, show s.seqOk = false by simpa using hok] at h
  by_cases hrdy : s.rdy = true
  · exact .ready hrst hok hrdy (by simp [stepLabel, hrst, hok, hrdy])
      (by simpa [step, hrst, hok, hrdy] using h.symm)
  have ha : Active s := ⟨hrst, by simpa using hrdy, hok⟩
  rw [step_active ha] at h
  have hl := stepLabel_active ha
  have hhold : s.fetch = .hold → (s.rxq = [] ∨ s.st = .done ∨ s.st = .failed) → StepCase s t := by
    intro hf hwhy
    rw [hf] at h hl
    exact .hold ha hwhy hl (by simpa using h.symm)
  rcases State.seqOk_cases s hok ha.rdy with hc | hb | hd | hd
  · obtain ⟨-, hst, -⟩ := (State.atControl_iff s).mp hc
    cases hq : s.rxq with
    | nil => exact hhold (by simp [State.fetch, State.context, hst, hq]) (.inl hq)
    | cons x xs =>
      obtain ⟨hx, hd⟩ | ⟨hx, hd⟩ | ⟨he, hd⟩ | ⟨he, h4, h1, i, hd, hn⟩ := decodeRx_control_cases x
      all_goals rw [fetch_control hst hq hd] at h hl
      · subst hx
        exact .eot ha hc xs hq hl (by simpa [exec, execEot, hc] using h.symm)
      · subst hx
        exact .blockStart ha hc xs hq hl (by simpa [exec, execBlock, hc] using h.symm)
      · exact .ioFailure ha (.inl hc) x xs hq he hl
          (by simpa [exec, execRxerr, hc, raise] using h.symm)
      · refine .discard ha hc x xs hq he h4 h1 (hl.trans (instrLabel_of_noiseByte hn s)) ?_
        simpa [exec_of_noiseByte hn, discardByte, hc] using h.symm
  · obtain ⟨-, hst, -, -⟩ := (State.inBody_iff s).mp hb
    cases hq : s.rxq with
    | nil => exact hhold (by simp [State.fetch, State.context, hst, hq]) (.inl hq)
    | cons x xs =>
      rw [fetch_body hst hq] at h hl
      cases he : x.err with
      | true =>
        exact .ioFailure ha (.inr hb) x xs hq he (by simpa [he, instrLabel] using hl)
          (by simpa [he, exec, execRxerr, hb, raise] using h.symm)
      | false =>
        simp only [he, exec, Bool.false_eq_true, if_false, instrLabel] at h hl
        obtain ⟨-, ⟨hi, ht⟩ | ⟨hi, ht⟩ | ⟨j, hi, ht⟩ | ⟨hi, hv⟩⟩ := execBodybyte_next h
        · exact .sequence ha hb hi x xs hq he (by simpa [show s.idx = 1 from hi] using hl) ht
        · exact .complement ha hb hi x xs hq he (by simpa [show s.idx = 2 from hi] using hl) ht
        · have hi : s.idx = BitVec.ofNat 4 (3 + j.val) := hi
          exact .payload ha hb j hi x xs hq he (by rw [hi, if_neg (payloadOffset_ne_eight j)] at hl; exact hl) ht
        · have hi : s.idx = 8 := hi
          rw [if_pos hi] at hl
          obtain ⟨hw, ht⟩ | ⟨hc, hs, hacc⟩ := verdict_next hv
          · exact .reject ha hb hi x xs hq he hw hl ht
          · obtain ⟨hf, ht⟩ := accept_next hacc
            rw [verdictLabel_of_pass (s := s) hc hs] at hl
            exact .accept ha hb hi x xs hq he hc hs hf hl ht
  all_goals exact hhold (by simp [State.fetch, State.context, hd.1]) (by simp [hd.1])

end Sys2Proof.Machine
end

