-- ==== Sys2Proof/Tests/Slice0.lean ====
section
/-! SUPPORT. The model's own tests, with expected values from spec/95_test_vectors.md and the worked examples of the
rules, and for every obligation with hypotheses a concrete case that meets them. -/

namespace Sys2Proof.Tests

open Sys2Proof.Machine

/-! ## Small states -/

/-- At control, past the readiness NAK, with a queue. -/
def ctl (q : List Symbol) : State := { State.reset with rdy := false, tx := [0x15], rxq := q }

/-- In the block of scenario S1 (95_test_vectors.md) before offset `i`, with `sum` as that scenario has it. -/
def blk (i : BitVec 4) (sum : Byte) (q : List Symbol) : State :=
  { ctl q with st := .readingBlockBody, idx := i, seq := 0x05, cmp := 0xFA, sum := sum,
               pay := ⟨0x48, 0x49, 0x03, 0x03, 0x03⟩, rxn := i.toNat }

/-- An ended session that holds "HI". -/
def ended (t : St) (q : List Symbol) : State :=
  { ctl q with st := t, msg := [(0, 0x48), (1, 0x49)], tx := [0x15, 0x06, 0x06], rxn := 10 }

/-- The block of scenario S1. -/
def s1 : Frame := ⟨0x05, 0xFA, 0x48, 0x49, 0x03, 0x03, 0x03, 0x9A⟩

/-- The answer is the next state `t`. -/
def answers (r : Result) (t : State) : Bool :=
  match r with
  | .next u => u = t
  | .fault _ => false
  | .refused _ => false

/-- The answer is the refusal `why`. -/
def refuses (r : Result) (why : Refusal) : Bool :=
  match r with
  | .next _ => false
  | .fault _ => false
  | .refused w => w = why

theorem eq_next_iff (r : Result) (t : State) : r = .next t ↔ answers r t = true := by
  cases r <;> simp [answers]

theorem eq_refused_iff (r : Result) (why : Refusal) : r = .refused why ↔ refuses r why = true := by
  cases r <;> simp [refuses]

/-! ## WellFormed: each check refuses an ill-formed term -/

theorem test_wf_noise80_refuses : (Instr.noise80 0x7F).wf = false := by decide
theorem test_wf_noise40_refuses : (Instr.noise40 0x80).wf = false := by decide
theorem test_wf_noise20_refuses : (Instr.noise20 0x1F).wf = false := by decide
theorem test_wf_noise10_refuses : (Instr.noise10 0x20).wf = false := by decide
theorem test_wf_noise08_refuses : (Instr.noise08 0x07).wf = false := by decide
theorem test_wf_noise06_refuses : (Instr.noise06 0x05).wf = false := by decide
theorem test_wf_noise02_refuses : (Instr.noise02 0x04).wf = false := by decide

/-! ## Decoding: words written out from the tables of R104, R107 and R108 -/

theorem test_decode_eot : decodeRx .control 0b000000100#9 = .ok .eot := by decide
theorem test_decode_block : decodeRx .control 0b000000001#9 = .ok .block := by decide
theorem test_decode_noise80 : decodeRx .control 0b011111111#9 = .ok (.noise80 0xFF) := by decide
theorem test_decode_noise40 : decodeRx .control 0b001111111#9 = .ok (.noise40 0x7F) := by decide
theorem test_decode_noise20 : decodeRx .control 0b000111111#9 = .ok (.noise20 0x3F) := by decide
theorem test_decode_noise10 : decodeRx .control 0b000010101#9 = .ok (.noise10 0x15) := by decide
theorem test_decode_noise08 : decodeRx .control 0b000001000#9 = .ok (.noise08 0x08) := by decide
theorem test_decode_noise06 : decodeRx .control 0b000000111#9 = .ok (.noise06 0x07) := by decide
theorem test_decode_noise05 : decodeRx .control 0b000000101#9 = .ok .noise05 := by decide
theorem test_decode_noise02 : decodeRx .control 0b000000011#9 = .ok (.noise02 0x03) := by decide
theorem test_decode_noise00 : decodeRx .control 0b000000000#9 = .ok .noise00 := by decide
theorem test_decode_rxerr : decodeRx .control 0b100000001#9 = .ok (.rxerr 0x01) := by decide
theorem test_decode_rxerr_in_body : decodeRx .body 0b111111111#9 = .ok (.rxerr 0xFF) := by decide
theorem test_decode_bodybyte : decodeRx .body 0b000000100#9 = .ok (.bodybyte 0x04) := by decide
theorem test_decode_ack : decodeTx 0b00000110#8 = .ok .ack := by decide
theorem test_decode_nak : decodeTx 0b00010101#8 = .ok .nak := by decide
theorem test_decode_tx_refuses_eot : decodeTx 0x04 = .error (.notAResponse 0x04) := by decide
theorem test_decode_table_words :
    decodeTableWord 9 0x004 = some .eot ∧ decodeTableWord 16 0x00F0 = some (.noise80 0xF0) ∧
    decodeTableWord 9 0x1AB = some (.rxerr 0xAB) ∧ decodeTableWord 8 0x15 = some .nak ∧
    decodeTableWord 16 0x200 = none := by decide

/-- The 72-bit string of scenario S1. -/
theorem test_frame_bits_s1 : s1.bits = 0x0105FA48490303039A#72 := by decide

/-! ## One step of each instruction -/

/-- R130's worked example. -/
theorem test_step_eot :
    step { ctl [0x004] with msg := [(0, 0x48), (1, 0x49)], tx := [0x15, 0x06], rxn := 9 } =
      .next { ctl [] with st := .done, msg := [(0, 0x48), (1, 0x49)], tx := [0x15, 0x06, 0x06], rxn := 10 } := by
  simp only [eq_next_iff]
  decide

/-- R140's worked example. -/
theorem test_step_block :
    step { ctl [0x001, 0x004] with sum := 0x74 } =
      .next { ctl [0x004] with st := .readingBlockBody, idx := 1, sum := 0x00, rxn := 1 } := by
  simp only [eq_next_iff]
  decide

/-- R180's worked example, symbol FF. -/
theorem test_step_noise80 : step (ctl [0x0FF]) = .next { ctl [] with rxn := 1 } := by
  simp only [eq_next_iff]
  decide

/-- Vector V2's symbols, one from each pattern. -/
theorem test_step_noise40 : step (ctl [0x041]) = .next { ctl [] with rxn := 1 } := by
  simp only [eq_next_iff]
  decide
theorem test_step_noise20 : step (ctl [0x020]) = .next { ctl [] with rxn := 1 } := by
  simp only [eq_next_iff]
  decide
theorem test_step_noise10 : step (ctl [0x015]) = .next { ctl [] with rxn := 1 } := by
  simp only [eq_next_iff]
  decide
theorem test_step_noise08 : step (ctl [0x008]) = .next { ctl [] with rxn := 1 } := by
  simp only [eq_next_iff]
  decide
theorem test_step_noise06 : step (ctl [0x006]) = .next { ctl [] with rxn := 1 } := by
  simp only [eq_next_iff]
  decide
theorem test_step_noise05 : step (ctl [0x005]) = .next { ctl [] with rxn := 1 } := by
  simp only [eq_next_iff]
  decide
theorem test_step_noise02 : step (ctl [0x003]) = .next { ctl [] with rxn := 1 } := by
  simp only [eq_next_iff]
  decide
theorem test_step_noise00 : step (ctl [0x000]) = .next { ctl [] with rxn := 1 } := by
  simp only [eq_next_iff]
  decide

/-- Vector V23: what follows the failure stays in the queue. -/
theorem test_step_rxerr_control :
    step (ctl [0x104, 0x004]) = .next { ctl [0x004] with st := .failed, rxn := 1 } := by
  simp only [eq_next_iff]
  decide

/-- Vector V25: at offset 8, with the complement already wrong, no NAK. -/
theorem test_step_rxerr_offset8 :
    step { blk 8 0x9A [0x100] with cmp := 0xFB } =
      .next { blk 8 0x9A [] with cmp := 0xFB, st := .failed, idx := 0, rxn := 9 } := by
  simp only [eq_next_iff]
  decide

/-- Program P1 of 95_test_vectors.md at rxn 7: D9 + 4C wraps to 25. -/
theorem test_step_bodybyte_sum_wraps :
    step { blk 6 0xD9 [0x04C] with pay := ⟨0x48, 0x45, 0x4C, 0x00, 0x00⟩ } =
      .next { blk 6 0x25 [] with idx := 7, pay := ⟨0x48, 0x45, 0x4C, 0x4C, 0x00⟩, rxn := 7 } := by
  simp only [eq_next_iff]
  decide

/-- Scenario S1's last body byte: "HI" is appended, 06 emitted. -/
theorem test_step_bodybyte_accepts_s1 :
    step (blk 8 0x9A [0x09A]) =
      .next { blk 8 0x9A [] with st := .awaitingControl, idx := 0, msg := [(0, 0x48), (1, 0x49)],
                                 tx := [0x15, 0x06], rxn := 9 } := by
  simp only [eq_next_iff]
  decide

/-- Vectors V17, V19, V21: which label a rejected block has. -/
theorem test_verdict_labels :
    verdictLabel 0x9A { blk 8 0x9A [] with cmp := 0xFB } = .framingError ∧
    verdictLabel 0x9B (blk 8 0x9A []) = .checksumError ∧
    verdictLabel 0x00 { blk 8 0x9A [] with cmp := 0xFB } = .framingError := by decide

/-- R191. -/
theorem test_exec_ack : exec .ack (ctl []) = .next { ctl [] with tx := [0x15, 0x06] } := by
  simp only [eq_next_iff]
  decide
theorem test_exec_nak : exec .nak (ctl []) = .next { ctl [] with tx := [0x15, 0x15] } := by
  simp only [eq_next_iff]
  decide

/-- R196's worked example: the first step from reset. -/
theorem test_step_ready :
    step State.reset = .next { State.reset with rdy := false, tx := [0x15] } := by
  simp only [eq_next_iff]
  decide

/-- Vector V7: the sum 1275 has low byte FB; V8: 256 wraps to 00. -/
theorem test_payload_sum :
    payloadSum 0xFF 0xFF 0xFF 0xFF 0xFF = 0xFB ∧ payloadSum 0x80 0x80 0x00 0x00 0x00 = 0x00 := by decide

/-- Vectors V10, V11. -/
theorem test_strip_padding :
    stripPadding [0x03, 0x03, 0x03, 0x03, 0x03] = [] ∧
    stripPadding [0x48, 0x03, 0x49, 0x03, 0x4A] = [0x48, 0x49, 0x4A] := by decide

/-- Boundary case P6 of 95_test_vectors.md: the sequence number of `SEND 255` wraps. -/
theorem test_send_wraps :
    sendFrames 11 255 [0x61, 0x62, 0x63, 0x64, 0x65, 0x66, 0x67, 0x68, 0x69, 0x6A, 0x6B] =
      [⟨0xFF, 0x00, 0x61, 0x62, 0x63, 0x64, 0x65, 0xEF⟩, ⟨0x00, 0xFF, 0x66, 0x67, 0x68, 0x69, 0x6A, 0x08⟩,
       ⟨0x01, 0xFE, 0x6B, 0x03, 0x03, 0x03, 0x03, 0x77⟩] := by decide

/-! ## A word where the next step reads it -/

theorem test_fetch_word_eot :
    (State.reset.withFetchWord 9 0x004).fetch = .instr .eot ∧
    stepLabel (State.reset.withFetchWord 9 0x004) = some .eot := by decide

/-- NAK is emitted by the `Ready` step, ACK by the step of an EOT. -/
theorem test_fetch_word_tx :
    stepLabel (State.reset.withFetchWord 8 0x15) = some .ready ∧
    stepLabel (State.reset.withFetchWord 8 0x06) = some .eot := by decide

/-! ## Witnesses: encoding -/

theorem test_witness_DecodeOfEncodeIsIdentity :
    Instr.eot.wf = true ∧ Instr.block.wf = true ∧ (Instr.noise80 0x80).wf = true ∧ (Instr.noise80 0xFF).wf = true ∧
    (Instr.noise40 0x40).wf = true ∧ (Instr.noise40 0x7F).wf = true ∧ (Instr.noise20 0x20).wf = true ∧
    (Instr.noise10 0x1F).wf = true ∧ (Instr.noise08 0x0F).wf = true ∧ (Instr.noise06 0x06).wf = true ∧
    Instr.noise05.wf = true ∧ (Instr.noise02 0x02).wf = true ∧ Instr.noise00.wf = true ∧
    (Instr.rxerr 0xFF).wf = true ∧ (Instr.bodybyte 0x01).wf = true ∧ Instr.ack.wf = true ∧ Instr.nak.wf = true := by
  decide

theorem test_witness_EncodeOfDecodeIsIdentity :
    decode .control (.rx 0x0FF) = .ok (.noise80 0xFF) ∧ decode .body (.rx 0x0FF) = .ok (.bodybyte 0xFF) ∧
    decode .body (.tx 0x06) = .ok .ack := by decide

theorem test_witness_FrameEncodingsRoundTrip :
    cutUnit (s1.symbols ++ [0x004]) = some (.block s1, [0x004]) ∧
    Frame.ofBits 0x0105FA48490303039A#72 = some s1 := by decide

theorem test_witness_UnitLengthFollowsFirstSymbol :
    (0x101 : Symbol) ≠ 0b000000001#9 ∧ s1.body.length = 8 ∧
    (([] : List Byte).length ≤ 7 ∧ (0x100 : Symbol).err = true) ∧
    ((s1.body.take 7).length ≤ 7 ∧ (0x1FF : Symbol).err = true) ∧
    cutUnit (0b000000001#9 :: (s1.body.map byteSymbol ++ [0x004])) = some (.block s1, [0x004]) ∧
    cutUnit [0b000000001#9, 0x100, 0x004] = some (.truncated 1, [0x004]) ∧
    cutUnit (0b000000001#9 :: ((s1.body.take 7).map byteSymbol ++ [0x1FF])) = some (.truncated 8, []) := by decide

/-! ## Witnesses: the step -/

theorem test_witness_StepRunsDecodedInstruction :
    ((ctl [0x004]).rst = false ∧ (ctl [0x004]).rdy = false ∧ (ctl [0x004]).seqOk = true ∧
      (ctl [0x004]).st = .awaitingControl ∧ (ctl [0x004]).rxq = [0x004] ∧ decodeRx .control 0x004 = .ok .eot) ∧
    ((blk 8 0x9A [0x09A]).rst = false ∧ (blk 8 0x9A [0x09A]).rdy = false ∧ (blk 8 0x9A [0x09A]).seqOk = true ∧
      (blk 8 0x9A [0x09A]).st = .readingBlockBody ∧ (blk 8 0x9A [0x09A]).rxq = [0x09A] ∧
      decodeRx .body 0x09A = .ok (.bodybyte 0x9A)) := by decide

theorem test_witness_ReadyStepEmitsNakOnce :
    State.reset.rst = false ∧ State.reset.seqOk = true ∧ State.reset.rdy = true ∧
    step State.reset = .next (ready State.reset) := by
  simp only [eq_next_iff]
  decide

theorem test_witness_WaitHoldsUntilArrival :
    Waiting (ctl []) ∧ (ctl []).seqOk = true ∧ Waiting (blk 1 0 []) ∧ (blk 1 0 []).seqOk = true := by
  unfold Waiting
  decide

theorem test_witness_TerminalStatesHold :
    ((ended .done [0x104]).st = .done ∧ (ended .done [0x104]).rdy = false ∧ (ended .done [0x104]).idx = 0 ∧
      (ended .done [0x104]).rst = false) ∧
    ((ended .failed [0x004]).st = .failed ∧ (ended .failed [0x004]).rdy = false ∧ (ended .failed [0x004]).idx = 0 ∧
      ((ended .failed [0x004]).setRst true).rst = true) ∧
    (∀ e ∈ [Event.arrive 0x001, Event.tick], e.notReset = true) := by decide

theorem test_witness_ResetEdgeTakesResetState :
    ((blk 4 0x48 [0x049]).setRst true).rst = true ∧
    step ((blk 4 0x48 [0x049]).setRst true) = .next ((blk 4 0x48 [0x049]).setRst true).takeReset := by
  simp only [eq_next_iff]
  decide

/-! ## Witnesses: the instructions -/

theorem test_witness_EotAcknowledgesAndTerminates :
    (ctl []).rdy = false ∧ (ctl []).st = .awaitingControl ∧ (ctl []).idx = 0 := by decide

theorem test_witness_BlockStartSetsOffsetOne :
    (ctl [0x005]).rdy = false ∧ (ctl [0x005]).st = .awaitingControl ∧ (ctl [0x005]).idx = 0 := by decide

theorem test_witness_NoiseChangesNothing :
    ((0x00 : Byte) ≠ 0x01 ∧ (0x00 : Byte) ≠ 0x04) ∧ ((0xFF : Byte) ≠ 0x01 ∧ (0xFF : Byte) ≠ 0x04) ∧
    Instr.noise00.noiseByte = some 0x00 ∧ (Instr.noise80 0xFF).noiseByte = some 0xFF ∧
    (ctl [0x0FF]).rdy = false ∧ (ctl [0x0FF]).st = .awaitingControl ∧ (ctl [0x0FF]).idx = 0 ∧
    (ctl [0x0FF]).rst = false ∧ (ctl [0x0FF]).rxq = byteSymbol 0xFF :: [] := by decide

theorem test_witness_BodyBytesAreCaptured :
    (∀ i ∈ [1, 2, 3, 7], i ≠ 8 ∧ (blk i 0 []).rdy = false ∧ (blk i 0 []).st = .readingBlockBody ∧ (blk i 0 []).idx = i) ∧
    (blk 3 0 []).idx.toNat = 3 + (0 : Fin 5).val ∧ (blk 7 0 []).idx.toNat = 3 + (4 : Fin 5).val := by decide

theorem test_witness_ComplementCheckForms :
    let s := { blk 8 0x9A [] with cmp := 0xFB }
    complementOk s.seq s.cmp = false := by decide

theorem test_witness_WrongComplementIsFramingError :
    let s := { blk 8 0x9A [] with cmp := 0xFB }
    s.rdy = false ∧ s.st = .readingBlockBody ∧ s.idx = 8 ∧ s.cmp.toNat ≠ 255 - s.seq.toNat := by decide

theorem test_witness_WrongChecksumIsChecksumError :
    let s := blk 8 0x9A []
    s.rdy = false ∧ s.st = .readingBlockBody ∧ s.idx = 8 ∧ s.cmp.toNat = 255 - s.seq.toNat ∧
      (0x9B : Byte) ≠ s.sum := by decide

/-- A capacity that the two new bytes fill exactly, and a payload of padding in a full store. -/
theorem test_witness_ValidBlockIsAppendedAndAcknowledged :
    (let s := { blk 8 0x9A [] with msgCap := some 2 }
     s.rdy = false ∧ s.st = .readingBlockBody ∧ s.idx = 8 ∧ s.cmp.toNat = 255 - s.seq.toNat ∧ 0x9A = s.sum ∧
       s.msg.wf = true ∧
       [0x48, 0x49] = [s.pay.p0, s.pay.p1, s.pay.p2, s.pay.p3, s.pay.p4].filter (fun x => x != 0x03) ∧
       s.msgCap = some 2 ∧ s.msg.mlen + [0x48, 0x49].length ≤ 2) ∧
    (let s := { blk 8 0x0F [] with msgCap := some 0, pay := ⟨0x03, 0x03, 0x03, 0x03, 0x03⟩ }
     s.rdy = false ∧ s.st = .readingBlockBody ∧ s.idx = 8 ∧ s.cmp.toNat = 255 - s.seq.toNat ∧ 0x0F = s.sum ∧
       s.msg.wf = true ∧
       [] = [s.pay.p0, s.pay.p1, s.pay.p2, s.pay.p3, s.pay.p4].filter (fun x => x != 0x03) ∧
       s.msgCap = some 0 ∧ s.msg.mlen ≤ 0) := by decide

theorem test_witness_AppendBeyondCapacityIsRefused :
    (let s := { blk 8 0x9A [] with msgCap := some 1 }
     s.rdy = false ∧ s.st = .readingBlockBody ∧ s.idx = 8 ∧ s.cmp.toNat = 255 - s.seq.toNat ∧ s.msgCap = some 1 ∧
       1 < s.msg.mlen + (stripPadding s.pay.toList).length) ∧
    (let s := { ctl [0x005] with msgCap := some 0 }
     s.msgCap = some 0 ∧ s.msg.mlen ≤ 0 ∧ step s = .next s.popRx) := by
  simp only [eq_next_iff]
  decide

theorem test_witness_TransportErrorEndsSession :
    (0x100 : Symbol).err = true ∧ (0x1FF : Symbol).err = true ∧
    ((ctl []).rdy = false ∧ (ctl []).st = .awaitingControl ∧ (ctl []).idx = 0) ∧
    (State.reset.rst = false ∧ State.reset.rdy = true ∧ step State.reset = .next (ready State.reset)) ∧
    ((ended .done [0x100]).st = .done ∧ step (ended .done [0x100]) = .next (ended .done [0x100])) ∧
    ∀ i ∈ [1, 8], (blk i 0 []).rdy = false ∧ (blk i 0 []).st = .readingBlockBody ∧
      1 ≤ (blk i 0 []).idx ∧ (blk i 0 []).idx ≤ 8 := by
  simp only [eq_next_iff]
  decide

theorem test_witness_RefusedWhereNotDecoded :
    ¬ (State.reset.rdy = false ∧ State.reset.st = .awaitingControl ∧ State.reset.idx = 0) ∧
    ¬ ((blk 9 0 []).rdy = false ∧ (blk 9 0 []).st = .readingBlockBody ∧ 1 ≤ (blk 9 0 []).idx ∧
      (blk 9 0 []).idx ≤ 8) ∧
    ¬ ((ended .done []).rdy = false ∧ (((ended .done []).st = .awaitingControl ∧ (ended .done []).idx = 0) ∨
      ((ended .done []).st = .readingBlockBody ∧ 1 ≤ (ended .done []).idx ∧ (ended .done []).idx ≤ 8))) := by decide

theorem test_witness_FrameOfControlInstructions :
    exec .eot (ctl []) = .next { ctl [] with st := .done, tx := [0x15, 0x06] } ∧
    exec .block (ctl []) = .next { ctl [] with st := .readingBlockBody, idx := 1 } ∧
    (Instr.noise80 0x80).noiseByte = some 0x80 ∧ exec (.noise80 0x80) (ctl []) = .next (ctl []) ∧
    exec (.rxerr 0x04) (ctl []) = .next { ctl [] with st := .failed } := by
  simp only [eq_next_iff]
  decide

theorem test_witness_FrameOfBodyByte :
    (blk 8 0x9A []).msg.wf = true ∧
    exec (.bodybyte 0x05) (blk 1 0 []) = .next { blk 1 0 [] with idx := 2 } ∧
    (exec (.bodybyte 0x9B) (blk 8 0x9A []) =
        .next { blk 8 0x9A [] with st := .awaitingControl, idx := 0, tx := [0x15, 0x15] } ∧
      verdictLabel 0x9B (blk 8 0x9A []) ≠ .accept) ∧
    (exec (.bodybyte 0x9A) (blk 8 0x9A []) =
        .next { blk 8 0x9A [] with st := .awaitingControl, idx := 0, tx := [0x15, 0x06],
                                   msg := [(0, 0x48), (1, 0x49)] } ∧
      verdictLabel 0x9A (blk 8 0x9A []) = .accept) := by
  simp only [eq_next_iff]
  decide

/-! ## Witnesses: checks, status, host -/

/-- The state before S1's checksum byte has the invariants. -/
theorem test_inv_blk8 : Inv (blk 8 0x9A [0x09A]) := by
  constructor <;> decide

theorem test_witness_ChecksumCheckIsPayloadSum :
    Inv (blk 8 0x9A [0x09A]) ∧ (blk 8 0x9A [0x09A]).st = .readingBlockBody ∧ (blk 8 0x9A [0x09A]).idx = 8 :=
  ⟨test_inv_blk8, rfl, rfl⟩

theorem test_witness_PaddingFilterRemovesExactlyPadding : (0x00 : Byte) ≠ 0x03 ∧ (0xFF : Byte) ≠ 0x03 := by decide

theorem test_witness_ChecksumMissesReordering :
    let g : Frame := { s1 with p0 := 0x49, p1 := 0x48 }
    frameValid s1 = true ∧ g.n = s1.n ∧ g.c = s1.c ∧ g.k = s1.k ∧ g.payload.Perm s1.payload := by decide

theorem test_witness_FlagsSetByTheirStepsOnly :
    ((ctl [0x004]).doneFlag = false ∧
      step (ctl [0x004]) = .next { ctl [] with st := .done, tx := [0x15, 0x06], rxn := 1 }) ∧
    ((ctl [0x1FF]).failFlag = false ∧ step (ctl [0x1FF]) = .next { ctl [] with st := .failed, rxn := 1 }) ∧
    ((ended .done []).rst = false ∧ (ended .done []).doneFlag = true ∧ step (ended .done []) = .next (ended .done [])) ∧
    ((ended .failed []).failFlag = true ∧ step (ended .failed []) = .next (ended .failed [])) := by
  simp only [eq_next_iff]
  decide

/-- The last address of the Message, the first past it, and a session still running. -/
theorem test_witness_HostReadsFinishedMessage :
    (ended .done []).msg.wf = true ∧ ((ended .done []).st = .done ∧ 1 < (ended .done []).msg.mlen) ∧
    ((ended .failed []).msg.wf = true ∧ (ended .failed []).st = .failed ∧ 0 < (ended .failed []).msg.mlen) ∧
    (ended .done []).msg.mlen ≤ 2 ∧ ((ctl []).msg.wf = true ∧ (ctl []).outcome = .running) := by decide

/-! ## Witnesses: the whole machine -/

theorem test_witness_EveryStepKeepsInvariant :
    Inv (blk 8 0x9A [0x09A]) ∧
    step (blk 8 0x9A [0x09A]) =
      .next { blk 8 0x9A [] with st := .awaitingControl, idx := 0, msg := [(0, 0x48), (1, 0x49)],
                                 tx := [0x15, 0x06], rxn := 9 } :=
  ⟨test_inv_blk8, by rw [eq_next_iff]; decide⟩

/-- A run in which `Ready`, an arrival and the end of the session happen, and one that starts a block. -/
theorem test_witness_ReachableStatesSatisfyInvariants :
    runEvents [.arrive 0x004, .tick, .tick] State.reset =
      .next { ctl [] with st := .done, tx := [0x15, 0x06], rxn := 1 } ∧
    runEvents [.tick, .arrive 0x001, .tick] State.reset =
      .next { ctl [] with st := .readingBlockBody, idx := 1, rxn := 1 } ∧
    runEvents [] State.reset = .next State.reset := by
  simp only [eq_next_iff]
  decide

theorem test_witness_TransitionTable :
    (State.reset.rst = false ∧ State.reset.seqOk = true ∧ State.reset.msgCap = none ∧ State.reset.rdy = true) ∧
    (∀ x ∈ [0x004, 0x001, 0x000, 0x0FF, 0x100], (ctl [x]).rst = false ∧ (ctl [x]).seqOk = true ∧
      (ctl [x]).msgCap = none ∧ (ctl [x]).rdy = false ∧ (ctl [x]).rxq = [x] ∧ (ctl [x]).st = .awaitingControl) ∧
    ((0x000 : Symbol).err = false ∧ (0x0FF : Symbol).err = false ∧ (0x100 : Symbol).err = true) ∧
    (∀ i ∈ [1, 7, 8], (blk i 0x9A [0x09A]).rst = false ∧ (blk i 0x9A [0x09A]).seqOk = true ∧
      (blk i 0x9A [0x09A]).msgCap = none ∧ (blk i 0x9A [0x09A]).rdy = false ∧
      (blk i 0x9A [0x09A]).st = .readingBlockBody) ∧
    ((blk 7 0x9A [0x09A]).idx ≤ 7 ∧ (0x09A : Symbol).err = false) ∧
    ((blk 8 0x9A []).cmp = 255 - (blk 8 0x9A []).seq ∧ (0x09A : Symbol).data = (blk 8 0x9A []).sum ∧
      (0x09B : Symbol).data ≠ (blk 8 0x9A []).sum ∧
      { blk 8 0x9A [] with cmp := 0x05 }.cmp ≠ 255 - { blk 8 0x9A [] with cmp := 0x05 }.seq) ∧
    ((ended .done []).seqOk = true ∧ (ended .done []).rst = false ∧ (ended .done []).msgCap = none ∧
      (ended .failed []).seqOk = true) := by decide

theorem test_witness_EmissionsInFourSituationsOnly :
    (State.reset.rst = false ∧ step State.reset = .next (ready State.reset) ∧ stepLabel State.reset = some .ready) ∧
    ((ctl [0x1FF]).rst = false ∧ step (ctl [0x1FF]) = .next { ctl [] with st := .failed, rxn := 1 } ∧
      stepLabel (ctl [0x1FF]) = some .ioFailure) := by
  simp only [eq_next_iff]
  decide

theorem test_witness_MessageGrowsByWholeAcceptedPayloads :
    ((blk 8 0x9A [0x09A]).rst = false ∧ stepLabel (blk 8 0x9A [0x09A]) = some .accept ∧
      step (blk 8 0x9A [0x09A]) =
        .next { blk 8 0x9A [] with st := .awaitingControl, idx := 0, msg := [(0, 0x48), (1, 0x49)],
                                   tx := [0x15, 0x06], rxn := 9 }) ∧
    ((blk 8 0x9A [0x09B]).rst = false ∧ stepLabel (blk 8 0x9A [0x09B]) ≠ some .accept ∧
      step (blk 8 0x9A [0x09B]) =
        .next { blk 8 0x9A [] with st := .awaitingControl, idx := 0, tx := [0x15, 0x15], rxn := 9 }) := by
  simp only [eq_next_iff]
  decide

theorem test_witness_MessageIsAppendOnly :
    (let s := { blk 8 0x9A [0x09A] with msg := [(0, 0x41)] }
     s.rst = false ∧ (∀ e ∈ [Event.tick], e.notReset = true) ∧ s.msg.wf = true ∧ 0 < s.msg.mlen ∧
       runEvents [.tick] s =
         .next { s with st := .awaitingControl, idx := 0, msg := [(0, 0x41), (1, 0x48), (2, 0x49)],
                        tx := [0x15, 0x06], rxn := 9, rxq := [] }) ∧
    (((ended .done []).setRst true).rst = true ∧
      step ((ended .done []).setRst true) = .next ((ended .done []).setRst true).takeReset) := by
  simp only [eq_next_iff]
  decide

theorem test_witness_StagingRegistersHaveOneWriter :
    (step (blk 1 0 [0x006]) = .next { blk 1 0 [] with seq := 0x06, idx := 2, rxn := 2 } ∧
      (0x06 : Byte) ≠ (blk 1 0 [0x006]).seq) ∧
    (step (blk 2 0 [0x006]) = .next { blk 2 0 [] with cmp := 0x06, idx := 3, rxn := 3 } ∧
      (0x06 : Byte) ≠ (blk 2 0 [0x006]).cmp) ∧
    (step (blk 7 0xFF [0x002]) =
        .next { blk 7 0x01 [] with pay := ⟨0x48, 0x49, 0x03, 0x03, 0x02⟩, idx := 8, rxn := 8 } ∧
      (0x01 : Byte) ≠ (blk 7 0xFF [0x002]).sum ∧ (0x02 : Byte) ≠ (blk 7 0xFF [0x002]).pay.get 4) ∧
    (let s := { ctl [0x001] with sum := 0x9A }
     step s = .next { ctl [] with st := .readingBlockBody, idx := 1, rxn := 1 } ∧ (0x00 : Byte) ≠ s.sum) := by
  simp only [eq_next_iff]
  decide

theorem test_witness_SymbolConsumedOnHandshake :
    ((ctl [0x005]).rst = false ∧ step (ctl [0x005]) = .next (ctl [0x005]).popRx ∧ (ctl [0x005]).rxReady = true ∧
      (ctl [0x005]).rxValid = true) ∧
    ((ctl []).rst = false ∧ step (ctl []) = .next (ctl []) ∧
      ¬ ((ctl []).rxReady = true ∧ (ctl []).rxValid = true)) := by
  simp only [eq_next_iff]
  decide

theorem test_witness_EveryReachableStateSteps :
    ((blk 12 0 []).setRst true).rst = true ∧ (blk 8 0x9A [0x09A]).seqOk = true ∧
    (let s := { blk 8 0x9A [0x09A] with msgCap := some 1 }
     s.seqOk = true ∧ step s = .refused .msgCapExceeded) := by
  simp only [eq_refused_iff]
  decide

/-- Outside a block every staging register may differ. -/
theorem test_same_but_dead_staging : SameButDeadStaging (ctl [0x001]) { ctl [0x001] with seq := 0xFF, sum := 0xFF } := by
  constructor <;> first | decide | (unfold stagingAgree; decide)

theorem test_witness_DeadStagingNotReadByStep :
    SameButDeadStaging (ctl [0x001]) { ctl [0x001] with seq := 0xFF, sum := 0xFF } ∧
    step (ctl [0x001]) = .next { ctl [] with st := .readingBlockBody, idx := 1, rxn := 1 } :=
  ⟨test_same_but_dead_staging, by rw [eq_next_iff]; decide⟩

theorem test_witness_ObservationIndependentOfStaleStaging :
    SameButDeadStaging (ctl [0x001]) { ctl [0x001] with seq := 0xFF, sum := 0xFF } ∧
    runEvents [.tick, .arrive 0x004] (ctl [0x001]) =
      .next { ctl [0x004] with st := .readingBlockBody, idx := 1, rxn := 1 } :=
  ⟨test_same_but_dead_staging, by rw [eq_next_iff]; decide⟩

theorem test_witness_CountingLaw :
    State.reset.rst = false ∧ State.reset.seqOk = true ∧ State.reset.rdy = true ∧ State.reset.tx = [] ∧
    (∀ e ∈ [Event.arrive 0x004, Event.tick, Event.tick], e.notReset = true) ∧
    runEvents [.arrive 0x004, .tick, .tick] State.reset =
      .next { ctl [] with st := .done, tx := [0x15, 0x06], rxn := 1 } := by
  simp only [eq_next_iff]
  decide

theorem test_witness_BodyBytesHaveNoControlMeaning :
    (∀ i ∈ [1, 7, 8], (blk i 0x9A [byteSymbol 0x04]).rst = false ∧ (blk i 0x9A [byteSymbol 0x04]).inBody = true ∧
      (blk i 0x9A [byteSymbol 0x04]).rxq = byteSymbol 0x04 :: []) ∧
    step (blk 1 0x9A [byteSymbol 0x04]) = .next { blk 1 0x9A [] with seq := 0x04, idx := 2, rxn := 2 } ∧
    step (blk 8 0x9A [byteSymbol 0x04]) =
      .next { blk 8 0x9A [] with st := .awaitingControl, idx := 0, tx := [0x15, 0x15], rxn := 9 } := by
  simp only [eq_next_iff]
  decide

theorem test_witness_PriorityOfConditions :
    (let s := { blk 8 0x9A [] with cmp := 0xFB }; s.cmp ≠ 255 - s.seq ∧ (0x00 : Byte) ≠ s.sum) ∧
    ((blk 8 0x9A []).rst = false ∧ (blk 8 0x9A []).rdy = false ∧ (blk 8 0x9A []).seqOk = true ∧
      (blk 8 0x9A []).outcome = .running) ∧
    (State.reset.rst = false ∧ State.reset.rdy = true ∧ State.reset.seqOk = true) ∧
    (State.reset.setRst true).rst = true := by decide

theorem test_witness_ArrivalCommutesWithStep :
    ¬ Waiting (ctl [0x005]) ∧ step (ctl [0x005]) = .next (ctl [0x005]).popRx := by
  simp only [eq_next_iff]
  unfold Waiting
  decide

theorem test_witness_QueueIsWorkedOff :
    ((ctl [0x005]).rst = false ∧ (ctl [0x005]).seqOk = true ∧ (ctl [0x005]).outcome = .running ∧
      (ctl [0x005]).rxq ≠ [] ∧ (ctl [0x005]).msgCap = none) ∧
    (State.reset.rst = false ∧ State.reset.seqOk = true ∧ State.reset.outcome = .running ∧ State.reset.rdy = true) := by
  decide

theorem test_witness_ClockEdgeIsOneStep :
    ((ctl [0x005]).rst = false ∧ step (ctl [0x005]) = .next (ctl [0x005]).popRx) ∧
    ((State.reset.setRst true).rst = true ∧
      step (State.reset.setRst true) = .next (State.reset.setRst true).takeReset) := by
  simp only [eq_next_iff]
  decide

/-! ## Witnesses: streams -/

/-- Where the streams start: at control, out of reset, past the readiness NAK. -/
theorem test_stream_start (q : List Symbol) :
    (ctl q).rst = false ∧ (ctl q).rdy = false ∧ (ctl q).st = .awaitingControl ∧ (ctl q).idx = 0 ∧
      (ctl q).msgCap = none ∧ (ctl q).rxq = q :=
  ⟨rfl, rfl, rfl, rfl, rfl, rfl⟩

theorem test_witness_NoiseRunsAreDiscarded :
    (∀ b ∈ [(0xFF : Byte), 0x00], b ≠ 0x01 ∧ b ≠ 0x04) ∧
    (ctl [0x0FF, 0x000, 0x004]).rxq = [(0xFF : Byte), 0x00].map byteSymbol ++ [0x004] := by decide

/-- The four blocks: S1, V17 (complement), V19 (checksum), V10 (all padding). -/
theorem test_witness_NineStepsAreOneBlock :
    frameValid s1 = true ∧ frameComplementOk { s1 with c := 0xFB } = false ∧
    (frameComplementOk { s1 with k := 0x9B } = true ∧ frameSumOk { s1 with k := 0x9B } = false) ∧
    frameValid ⟨0x03, 0xFC, 0x03, 0x03, 0x03, 0x03, 0x03, 0x0F⟩ = true ∧
    (ctl (s1.symbols ++ [0x004])).rxq = s1.symbols ++ [0x004] ∧
    runSteps 8 (ctl (s1.symbols ++ [0x004])) = .next (blk 8 0x9A [0x09A, 0x004]) := by
  simp only [eq_next_iff]
  decide

theorem test_witness_ByteMachineRefinesUnitMachine :
    cutUnit (ctl [0x005]).rxq = some (.single .noise05, []) ∧
    cutUnit (ctl s1.symbols).rxq = some (.block s1, []) ∧
    cutUnit (ctl [0x001, 0x100]).rxq = some (.truncated 1, []) ∧
    runUnit (.truncated 1) (ctl [0x001, 0x100]) = .next { ctl [] with st := .failed, rxn := 2 } ∧
    runUnit (.block s1) { ctl s1.symbols with msgCap := some 1 } = .refused .msgCapExceeded := by
  simp only [eq_next_iff, eq_refused_iff]
  decide

/-- No byte before the `Err`, and seven. -/
theorem test_witness_TruncatedBlockFailsSilently :
    ([] : List Byte).length ≤ 7 ∧ (s1.body.take 7).length ≤ 7 ∧
    (ctl [0x001, 0x104]).rxq = byteSymbol 0x01 :: (([] : List Byte).map byteSymbol ++ errSymbol 0x04 :: []) ∧
    (ctl (byteSymbol 0x01 :: ((s1.body.take 7).map byteSymbol ++ [0x19A]))).rxq =
      byteSymbol 0x01 :: ((s1.body.take 7).map byteSymbol ++ errSymbol 0x9A :: []) := by decide

theorem test_witness_CorruptedBlockIsRejected :
    frameValid s1 = true ∧ (0x9B : Byte) ≠ s1.k ∧ (0x05 : Byte) ≠ s1.c ∧
    (ctl ({ s1 with k := 0x9B } : Frame).symbols).rxq = ({ s1 with k := 0x9B } : Frame).symbols ++ [] := by decide

theorem test_witness_SequenceNumberIsNotChecked :
    frameValid s1 = true ∧
    runSteps 9 { ctl [] with rxq := s1.symbols ++ [] } =
      .next { blk 8 0x9A [] with st := .awaitingControl, idx := 0, msg := [(0, 0x48), (1, 0x49)],
                                 tx := [0x15, 0x06], rxn := 9 } := by
  simp only [eq_next_iff]
  decide

theorem test_witness_ValidBlocksAppendedInArrivalOrder :
    frameValid s1 = true ∧ frameValid ⟨0x04, 0xFB, 0x03, 0x03, 0x41, 0x42, 0x43, 0xCC⟩ = true ∧
    (ctl (s1.symbols ++ s1.symbols ++ [0x004])).rxq = s1.symbols ++ (s1.symbols ++ [0x004]) := by decide

/-- A text that needs padding, one that needs none, and the empty one. -/
theorem test_witness_SentMessageIsRebuilt :
    (∀ b ∈ [(0x48 : Byte), 0x49], b ≠ 0x03) ∧
    (ctl (send 0xFF [0x48, 0x49] ++ [0x004])).rxq = send 0xFF [0x48, 0x49] ++ [0x004] ∧
    (∀ b ∈ [(0x41 : Byte), 0x42, 0x43, 0x44, 0x45], b ≠ 0x03) ∧
    (ctl (send 0 [])).rxq = send 0 [] ++ [] := by decide

end Sys2Proof.Tests
end

section
/-! SUPPORT. What a step that answers does to each part of the state, from the one case analysis `step_cases`. -/

namespace Sys2Proof.Machine

/-! ## The step's updates, down to the named updates of Laws/State -/

@[simp] theorem ready_eq (s : State) : ready s = (s.txWrite Config.NAK).clearRdy := rfl

@[simp] theorem State.startBlock_eq (s : State) : s.startBlock = (s.goto .readingBlockBody 1).setSum 0 := rfl

@[simp] theorem State.nextOffset_eq (s : State) : s.nextOffset = s.goto .readingBlockBody (s.idx + 1) := rfl

@[simp] theorem State.captureSeq_eq (s : State) (b : Byte) : s.captureSeq b = (s.setSeq b).nextOffset := rfl

@[simp] theorem State.captureCmp_eq (s : State) (b : Byte) : s.captureCmp b = (s.setCmp b).nextOffset := rfl

@[simp] theorem State.capturePay_eq (s : State) (i : Fin 5) (b : Byte) :
    s.capturePay i b = ((s.setPay i b).setSum (s.sum + b)).nextOffset := by
  simp [State.capturePay]

/-! ## Reachable encodings -/

/-- The reachable encodings by clause: R22 for the offset, R23 for `rdy`. -/
theorem State.seqOk_iff (s : State) :
    s.seqOk = true ↔
      (s.st = .readingBlockBody → 1 ≤ s.idx ∧ s.idx ≤ 8) ∧ (s.st ≠ .readingBlockBody → s.idx = 0) ∧
        (s.rdy = true → s.st = .awaitingControl) := by
  cases hst : s.st <;> cases hr : s.rdy <;> simp [State.seqOk, hst, hr]

theorem State.atControl_of_seqOk {s : State} (hok : s.seqOk = true) (hr : s.rdy = false)
    (hst : s.st = .awaitingControl) : s.atControl = true := by
  obtain ⟨-, hidx, -⟩ := (State.seqOk_iff s).mp hok
  exact (State.atControl_iff s).mpr ⟨hr, hst, hidx (by simp [hst])⟩

theorem State.inBody_of_seqOk {s : State} (hok : s.seqOk = true) (hr : s.rdy = false)
    (hst : s.st = .readingBlockBody) : s.inBody = true := by
  obtain ⟨hbody, -, -⟩ := (State.seqOk_iff s).mp hok
  exact (State.inBody_iff s).mpr ⟨hr, hst, hbody hst⟩

theorem State.st_of_inBody {s : State} (hb : s.inBody = true) : s.st = .readingBlockBody :=
  have ⟨_, hst, _⟩ := (State.inBody_iff s).mp hb
  hst

theorem State.rdy_of_terminal {s : State} (hok : s.seqOk = true) (ht : s.st = .done ∨ s.st = .failed) :
    s.rdy = false := by
  obtain ⟨-, -, hrdy⟩ := (State.seqOk_iff s).mp hok
  rcases ht with h | h <;> simpa [h] using hrdy

/-- The offset after a body byte before the last is again a body offset. -/
theorem nextOffset_inRange {i : BitVec 4} (h1 : 1 ≤ i) (h7 : i ≤ 7) : 1 ≤ i + 1 ∧ i + 1 ≤ 8 := by
  revert i
  decide

theorem State.nextOffset_seqOk {s : State} (hr : s.rdy = false) (h1 : 1 ≤ s.idx) (h7 : s.idx ≤ 7) :
    s.nextOffset.seqOk = true :=
  (State.seqOk_iff _).mpr ⟨fun _ => nextOffset_inRange h1 h7, by simp, by simp [hr]⟩

theorem payloadOffset_inRange (j : Fin 5) :
    1 ≤ BitVec.ofNat 4 (3 + j.val) ∧ BitVec.ofNat 4 (3 + j.val) ≤ 7 := by
  revert j
  decide

/-- In a reachable encoding the framer is within a block exactly at the offsets 1 to 8 (R30 (a)). -/
theorem State.reading_iff_offset {s : State} (hok : s.seqOk = true) :
    s.st = .readingBlockBody ↔ 1 ≤ s.idx.toNat ∧ s.idx.toNat ≤ 8 := by
  obtain ⟨hbody, hidx, -⟩ := (State.seqOk_iff s).mp hok
  constructor
  · intro hst
    simpa [BitVec.le_def] using hbody hst
  · rintro ⟨h1, -⟩
    by_contra hst
    simp [hidx hst] at h1

/-! ## What a step out of reset does to each part of the state -/

/-- A step that answers leaves a reachable encoding (R22, R23). -/
theorem step_seqOk {s t : State} (h : step s = .next t) : t.seqOk = true := by
  cases step_cases h with
  | reset _ _ ht => subst ht; rfl
  | ready _ hok hrdy _ ht =>
    obtain ⟨-, hidx, hst⟩ := (State.seqOk_iff s).mp hok
    subst ht
    simp [State.seqOk, hst hrdy, hidx]
  | hold ha _ _ ht => exact ht ▸ ha.seqOk
  | eot ha _ _ _ _ ht => subst ht; simp [State.seqOk, ha.rdy]
  | blockStart ha _ _ _ _ ht => subst ht; simp [State.seqOk, ha.rdy]
  | discard ha _ _ _ _ _ _ _ _ ht => subst ht; exact ha.seqOk
  | ioFailure ha _ _ _ _ _ _ ht => subst ht; simp [State.seqOk, ha.rdy]
  | sequence ha _ hi _ _ _ _ _ ht => subst ht; exact State.nextOffset_seqOk ha.rdy (by simp [hi]) (by simp [hi])
  | complement ha _ hi _ _ _ _ _ ht => subst ht; exact State.nextOffset_seqOk ha.rdy (by simp [hi]) (by simp [hi])
  | payload ha _ j hi _ _ _ _ _ ht =>
    obtain ⟨h1, h7⟩ := payloadOffset_inRange j
    subst ht
    exact State.nextOffset_seqOk ha.rdy (by simpa [hi] using h1) (by simpa [hi] using h7)
  | reject _ _ _ _ _ _ _ _ _ ht => subst ht; simp [State.seqOk]
  | accept _ _ _ _ _ _ _ _ _ _ _ ht => subst ht; simp [State.seqOk]

/-- Only the reset edge leaves the readiness NAK owed (R196). -/
theorem step_rdy {s t : State} (hrst : s.rst = false) (h : step s = .next t) : t.rdy = false := by
  cases step_cases h with
  | reset hr => simp [hrst] at hr
  | ready _ _ _ _ ht => subst ht; rfl
  | _ ha => simp_all [ha.rdy]

/-- A step emits the response of its label and nothing else (R190, R197). -/
theorem step_tx {s t : State} (hrst : s.rst = false) (h : step s = .next t) :
    t.tx = s.tx ++ ((stepLabel s).map Label.response).getD [] := by
  cases step_cases h with
  | reset hr => simp [hrst] at hr
  | reject _ _ _ _ _ _ _ hv hl ht =>
    subst ht
    rcases verdictLabel_of_fail hv with hlabel | hlabel <;> simp [hl, hlabel, Label.response]
  | _ => simp_all [Label.response]

theorem Label.response_alphabet (l : Label) : ∀ b ∈ l.response, b = Config.ACK ∨ b = Config.NAK := by
  cases l <;> simp [Label.response]

/-- The Message changes in the accepting step alone, by one whole append (R71). -/
theorem step_msg {s t : State} (hrst : s.rst = false) (h : step s = .next t) :
    (stepLabel s = some .accept ∧ t.msg = s.msg.append (stripPadding s.pay.toList)) ∨
    (stepLabel s ≠ some .accept ∧ t.msg = s.msg) := by
  cases step_cases h with
  | reset hr => simp [hrst] at hr
  | accept _ _ _ _ _ _ _ _ _ _ hl ht => exact .inl ⟨hl, by simp [ht]⟩
  | reject _ _ _ _ _ _ _ hv hl ht =>
    refine .inr ⟨?_, by simp [ht]⟩
    rcases verdictLabel_of_fail hv with hlabel | hlabel <;> simp [hl, hlabel]
  | _ => exact .inr (by simp_all)

/-- `Done` is entered by EOT, and held (R32, R132). -/
theorem step_done {s t : State} (h : step s = .next t) (hd : t.st = .done) :
    stepLabel s = some .eot ∨ t = s := by
  cases step_cases h with
  | hold _ _ _ ht => exact .inr ht
  | eot _ _ _ _ hl _ => exact .inl hl
  | ready _ hok hrdy _ ht =>
    obtain ⟨-, -, hst⟩ := (State.seqOk_iff s).mp hok
    simp [ht, hst hrdy] at hd
  | discard _ hc _ _ _ _ _ _ _ ht =>
    obtain ⟨-, hst, -⟩ := (State.atControl_iff s).mp hc
    simp [ht, hst] at hd
  | _ => simp_all

end Sys2Proof.Machine
end

section
/-! SUPPORT. The invariant `Inv` along every step and every sequence of events, and R30 (10_state.md) from it. -/

namespace Sys2Proof

open Machine

/-! ## The running sum -/

/-- Before the first payload byte nothing has been summed (R140). -/
theorem capturedSum_of_le (p : PayRegs) {j : Nat} (hj : j ≤ 3) : capturedSum p j = 0 := by
  simp [capturedSum, Nat.sub_eq_zero_of_le hj]

/-- Capturing `pay[j]` adds its byte to the sum of those before it (R143). -/
theorem capturedSum_set (p : PayRegs) (b : Byte) (j : Fin 5) :
    capturedSum (p.set b j) (4 + j.val) = capturedSum p (3 + j.val) + b := by
  fin_cases j <;> simp [capturedSum, PayRegs.set, PayRegs.toList]

namespace Machine

/-- R26 along a step: within a block `sum` stays the sum of the payload bytes captured. -/
theorem step_sumTracks {s t : State} (hs : s.st = .readingBlockBody → s.sum = capturedSum s.pay s.idx.toNat)
    (h : step s = .next t) (ht : t.st = .readingBlockBody) : t.sum = capturedSum t.pay t.idx.toNat := by
  cases step_cases h with
  | hold _ _ _ heq => subst heq; exact hs ht
  | ready _ hok hrdy _ heq =>
    obtain ⟨-, -, hst⟩ := (State.seqOk_iff s).mp hok
    simp [heq, hst hrdy] at ht
  | discard _ hc _ _ _ _ _ _ _ heq =>
    obtain ⟨-, hst, -⟩ := (State.atControl_iff s).mp hc
    simp [heq, hst] at ht
  | blockStart _ _ _ _ _ heq => subst heq; exact (capturedSum_of_le _ (by simp)).symm
  | sequence _ hb hi _ _ _ _ _ heq =>
    subst heq
    simp [hs (State.st_of_inBody hb), hi, capturedSum_of_le]
  | complement _ hb hi _ _ _ _ _ heq =>
    subst heq
    simp [hs (State.st_of_inBody hb), hi, capturedSum_of_le]
  | payload _ hb j hi x _ _ _ _ heq =>
    have hnow : s.idx.toNat = 3 + j.val := by rw [hi]; simp; omega
    have hnext : (s.idx + 1#4).toNat = 4 + j.val := by rw [BitVec.toNat_add, hnow]; simp; omega
    subst heq
    simp [-BitVec.toNat_add, hnext, capturedSum_set, hs (State.st_of_inBody hb), hnow]
  | _ => simp [*] at ht

/-! ## Runs -/

/-- What every event keeps holds after any sequence of events. -/
theorem runEvents_induction {P : State → Prop}
    (hkeep : ∀ (e : Event) (s t : State), P s → applyEvent e s = .next t → P t)
    {es : List Event} {s t : State} (hs : P s) (h : runEvents es s = .next t) : P t := by
  induction es generalizing s with
  | nil => cases h; exact hs
  | cons e es ih =>
    rw [runEvents] at h
    cases he : applyEvent e s with
    | next u => exact ih (hkeep e s u hs he) (by simpa [he] using h)
    | fault r => simp [he] at h
    | refused r => simp [he] at h

end Machine

/-! ## The invariant -/

/-- The reset edge establishes the invariant from every state (R260, R37). -/
theorem Inv.takeReset (s : State) : Inv s.takeReset := by
  constructor <;> simp [State.seqOk]

section
variable {s t : State} (hi : Inv s) (hrst : s.rst = false) (h : step s = .next t)
include hi hrst h

/-- R30 (d) is kept: what an accepting step appends has passed the filter. -/
theorem Inv.noPadding_step : ∀ b ∈ t.msg.bytes, b ≠ Config.ETX := by
  obtain ⟨-, hmsg⟩ | ⟨-, hmsg⟩ := step_msg hrst h
  · intro b hb
    rw [hmsg, Memory.bytes_append, List.mem_append] at hb
    exact hb.elim (hi.noPadding b) (stripPadding_ne _ b)
  · exact hmsg ▸ hi.noPadding

/-- R69 is kept: the one write is an append. -/
theorem Inv.store_step : t.msg.wf = true := by
  obtain ⟨-, hmsg⟩ | ⟨-, hmsg⟩ := step_msg hrst h
  · exact hmsg ▸ Memory.wf_append _ _ hi.store
  · exact hmsg ▸ hi.store

/-- R30 (e), the alphabet: what a step emits is the response of its label. -/
theorem Inv.responses_step : ∀ b ∈ t.tx, b = Config.ACK ∨ b = Config.NAK := by
  intro b hb
  rw [step_tx hrst h, List.mem_append] at hb
  rcases hb with hb | hb
  · exact hi.responses b hb
  · cases hl : stepLabel s with
    | none => simp [hl] at hb
    | some l => exact l.response_alphabet b (by simpa [hl] using hb)

/-- R30 (e), the first byte: the readiness NAK on an empty `tx`, or the one already there. -/
theorem Inv.opens_step : t.tx.head? = some Config.NAK := by
  cases hr : s.rdy with
  | false => simp [step_tx hrst h, List.head?_append, hi.opens hr]
  | true =>
    obtain ⟨-, hempty, -⟩ := hi.fresh hr
    have hl : stepLabel s = some .ready := by simp [stepLabel, hrst, hi.seqOk, hr]
    simp [step_tx hrst h, hempty, hl, Label.response]

/-- R30 (f): `Done` is entered with an ACK. -/
theorem Inv.doneAck_step (hd : t.st = .done) : t.tx.getLast? = some Config.ACK := by
  obtain hl | heq := step_done h hd
  · simp [step_tx hrst h, hl, Label.response]
  · exact heq ▸ hi.doneAck (heq ▸ hd)

end

/-- Every step keeps the invariant. -/
theorem Inv.step {s t : State} (hi : Inv s) (h : step s = .next t) : Inv t := by
  cases hrst : s.rst with
  | true =>
    have ht : t = s.takeReset := by simpa [Machine.step, hrst] using h.symm
    exact ht ▸ Inv.takeReset s
  | false =>
    exact
      { seqOk := step_seqOk h
        fresh := by simp [step_rdy hrst h]
        noPadding := hi.noPadding_step hrst h
        responses := hi.responses_step hrst h
        opens := fun _ => hi.opens_step hrst h
        doneAck := hi.doneAck_step hrst h
        store := hi.store_step hrst h
        sumTracks := step_sumTracks hi.sumTracks h }

/-- No clause of the invariant speaks of the queue or of `rst`. -/
theorem Inv.withInputs {s : State} (hi : Inv s) (q : List Symbol) (l : Bool) :
    Inv { s with rxq := q, rst := l } :=
  ⟨hi.seqOk, hi.fresh, hi.noPadding, hi.responses, hi.opens, hi.doneAck, hi.store, hi.sumTracks⟩

theorem Inv.applyEvent {e : Event} {s t : State} (hi : Inv s) (h : applyEvent e s = .next t) : Inv t := by
  cases e with
  | tick => exact hi.step h
  | arrive x => cases h; exact hi.withInputs _ s.rst
  | setRst l => cases h; exact hi.withInputs s.rxq l

theorem Inv.reset (q : List Symbol) : Inv { State.reset with rxq := q } := by
  constructor <;> simp [State.reset, State.seqOk]

theorem Inv.reachable {es : List Event} {s : State} (h : runEvents es State.reset = .next s) : Inv s :=
  runEvents_induction (fun _ _ _ => Inv.applyEvent) (Inv.reset []) h

/-- Settles O36: `Inv` holds at reset and every event keeps it; (a) to (f) are its clauses. -/
theorem reachableStatesSatisfyInvariants : Obligations.ReachableStatesSatisfyInvariants := by
  intro es s h
  have hi := Inv.reachable h
  obtain ⟨-, hidx, hrdy⟩ := (State.seqOk_iff s).mp hi.seqOk
  refine ⟨State.reading_iff_offset hi.seqOk, hidx, fun hr => ?_, hi.noPadding,
    ⟨hi.responses, fun hne => ?_⟩, hi.doneAck⟩
  · obtain ⟨hmsg, htx, hrxn⟩ := hi.fresh hr
    exact ⟨hrdy hr, by simp [hmsg], htx, hrxn⟩
  · refine hi.opens (Bool.eq_false_iff.mpr fun hr => ?_)
    obtain ⟨-, htx, -⟩ := hi.fresh hr
    exact hne htx

end Sys2Proof
end

section
/-! SUPPORT. The transition table R31 (10_state.md), the status functions R32 to R34 and the reset values R37. -/

namespace Sys2Proof.Machine

/-! ## What each meaning answers where its instruction is decoded -/

theorem execEot_of_atControl {s : State} (hc : s.atControl = true) :
    execEot s = .next ((s.txWrite Config.ACK).goto .done 0) := by
  simp [execEot, hc]

theorem execBlock_of_atControl {s : State} (hc : s.atControl = true) : execBlock s = .next s.startBlock := by
  simp [execBlock, hc]

theorem discardByte_of_atControl {s : State} (hc : s.atControl = true) : discardByte s = .next s := by
  simp [discardByte, hc]

theorem execRxerr_of_decoded {s : State} (d : Byte) (hd : s.atControl = true ∨ s.inBody = true) :
    execRxerr d s = .next (s.goto .failed 0) := by
  rcases hd with h | h <;> simp [execRxerr, h, raise]

/-- A body byte before the last moves to the next offset and emits nothing (R141 to R143). -/
theorem execBodybyte_before_last {s : State} (b : Byte) (hb : s.inBody = true) (h7 : s.idx ≤ 7) :
    ∃ t, execBodybyte b s = .next t ∧ t.st = .readingBlockBody ∧ t.idx = s.idx + 1 ∧ t.tx = s.tx := by
  obtain ⟨-, -, h1, h8⟩ := (State.inBody_iff s).mp hb
  obtain ⟨-, hf⟩ | ⟨-, hf⟩ | ⟨j, -, hf⟩ | ⟨hi, -⟩ := fieldAt_cases s.idx h1 h8
  · exact ⟨s.captureSeq b, by simp [execBodybyte, hb, hf], rfl, rfl, rfl⟩
  · exact ⟨s.captureCmp b, by simp [execBodybyte, hb, hf], rfl, rfl, rfl⟩
  · exact ⟨s.capturePay j b, by simp [execBodybyte, hb, hf], rfl, rfl, rfl⟩
  · simp [hi] at h7

/-- The last body byte is answered by the verdict (R144). -/
theorem execBodybyte_last {s : State} (b : Byte) (hb : s.inBody = true) (hi : s.idx = 8) :
    execBodybyte b s = verdict b s := by
  have hf : fieldAt s.idx = some .checksum := by rw [hi]; rfl
  simp [execBodybyte, hb, hf]

/-! ## The two checks and the verdict -/

theorem State.cmpOk_iff (s : State) : s.cmpOk = true ↔ s.cmp = 255 - s.seq := by
  simp [State.cmpOk, complementOk]

theorem State.sumOk_iff (k : Byte) (s : State) : s.sumOk k = true ↔ k = s.sum := by
  simp [State.sumOk]

theorem verdict_framingError {k : Byte} {s : State} (hc : s.cmpOk = false) :
    verdict k s = .next (raise .framingError s) := by
  simp [verdict, hc]

theorem verdict_checksumError {k : Byte} {s : State} (hc : s.cmpOk = true) (hs : s.sumOk k = false) :
    verdict k s = .next (raise .checksumError s) := by
  simp [verdict, hc, hs]

theorem verdict_accept {k : Byte} {s : State} (hc : s.cmpOk = true) (hs : s.sumOk k = true) :
    verdict k s = accept s := by
  simp [verdict, hc, hs]

theorem accept_of_unbounded {s : State} (hcap : s.msgCap = none) :
    accept s =
      .next (((s.msgAppend (stripPadding s.pay.toList)).txWrite Config.ACK).goto .awaitingControl 0) := by
  simp [accept, State.fits, hcap]

/-! ## The rows of the table -/

/-- A row of the table, from the instruction fetched: its label and its meaning. -/
theorem stepGoes_of_exec {s t : State} {i : Instr} {l : Label} {out : List Byte} (ha : Active s)
    (hf : s.fetch = .instr i) (hl : instrLabel s i = some l) (hx : exec i s.popRx = .next t)
    (htx : t.tx = s.tx ++ out) : StepGoes s l t.st t.idx out :=
  ⟨by simp [stepLabel_active ha, hf, hl], t, by simp [step_active ha, hf, hx], rfl, rfl, htx⟩

/-- The framer in `Done` or `Failed` has no labelled step and holds its state (R132, R224; log 8). -/
theorem step_terminal {s : State} (hrst : s.rst = false) (hok : s.seqOk = true)
    (ht : s.st = .done ∨ s.st = .failed) : stepLabel s = none ∧ step s = .next s := by
  have ha : Active s := ⟨hrst, State.rdy_of_terminal hok ht, hok⟩
  have hf : s.fetch = .hold := by rcases ht with h | h <;> simp [State.fetch, State.context, h]
  exact ⟨by simp [stepLabel_active ha, hf], by simp [step_active ha, hf]⟩

/-- The row for `rdy = 1` (R196). -/
theorem stepGoes_ready {s : State} (hrst : s.rst = false) (hok : s.seqOk = true) (hr : s.rdy = true) :
    StepGoes s .ready .awaitingControl 0 [0x15] := by
  obtain ⟨-, hidx, hst⟩ := (State.seqOk_iff s).mp hok
  exact ⟨by simp [stepLabel, hrst, hok, hr], ready s, by simp [step, hrst, hok, hr], hst hr,
    hidx (by simp [hst hr]), rfl⟩

section
variable {s : State} {x : Symbol} {xs : List Symbol}

/-! ### At control -/

theorem stepGoes_eot (ha : Active s) (hst : s.st = .awaitingControl) (hq : s.rxq = 0x004 :: xs) :
    StepGoes s .eot .done 0 [0x06] :=
  have hc := State.atControl_of_seqOk ha.seqOk ha.rdy hst
  stepGoes_of_exec ha (fetch_control hst hq decodeRx_control_eot) rfl (execEot_of_atControl (s := s.popRx) hc) rfl

theorem stepGoes_blockStart (ha : Active s) (hst : s.st = .awaitingControl) (hq : s.rxq = 0x001 :: xs) :
    StepGoes s .blockStart .readingBlockBody 1 [] :=
  have hc := State.atControl_of_seqOk ha.seqOk ha.rdy hst
  stepGoes_of_exec ha (fetch_control hst hq decodeRx_control_block) rfl
    (execBlock_of_atControl (s := s.popRx) hc) (by simp)

theorem stepGoes_discard (ha : Active s) (hst : s.st = .awaitingControl) (hq : s.rxq = x :: xs)
    (he : x.err = false) (h4 : x ≠ 0x004) (h1 : x ≠ 0x001) : StepGoes s .discard .awaitingControl 0 [] := by
  have hc := State.atControl_of_seqOk ha.seqOk ha.rdy hst
  obtain ⟨-, -, hidx⟩ := (State.atControl_iff s).mp hc
  obtain ⟨i, hd, hn⟩ := decodeRx_control_noise x he h4 h1
  have hx : exec i s.popRx = .next s.popRx := by
    rw [exec_of_noiseByte hn, discardByte_of_atControl (s := s.popRx) hc]
  simpa [hst, hidx] using
    stepGoes_of_exec (out := []) ha (fetch_control hst hq hd) (instrLabel_of_noiseByte hn s) hx (by simp)

/-- An `Err` symbol ends the session, at control and within a block (R222). -/
theorem stepGoes_ioFailure (ha : Active s) (hst : s.st = .awaitingControl ∨ s.st = .readingBlockBody)
    (hq : s.rxq = x :: xs) (he : x.err = true) : StepGoes s .ioFailure .failed 0 [] := by
  have hd : s.atControl = true ∨ s.inBody = true :=
    hst.imp (State.atControl_of_seqOk ha.seqOk ha.rdy) (State.inBody_of_seqOk ha.seqOk ha.rdy)
  have hf : s.fetch = .instr (.rxerr x.data) := by
    rcases hst with h | h
    · exact fetch_control h hq (decodeRx_control_err x he)
    · simp [fetch_body h hq, he]
  exact stepGoes_of_exec ha hf rfl (execRxerr_of_decoded (s := s.popRx) x.data hd) (by simp)

/-! ### Within a block -/

theorem fetch_bodybyte (hst : s.st = .readingBlockBody) (hq : s.rxq = x :: xs) (he : x.err = false) :
    s.fetch = .instr (.bodybyte x.data) := by
  simp [fetch_body hst hq, he]

theorem stepGoes_bodyByte (ha : Active s) (hst : s.st = .readingBlockBody) (hq : s.rxq = x :: xs)
    (he : x.err = false) (h7 : s.idx ≤ 7) : StepGoes s .bodyByte .readingBlockBody (s.idx + 1) [] := by
  have hb := State.inBody_of_seqOk ha.seqOk ha.rdy hst
  obtain ⟨t, hx, htst, htidx, httx⟩ := execBodybyte_before_last (s := s.popRx) x.data hb h7
  have hl : instrLabel s (.bodybyte x.data) = some .bodyByte := by
    have h8 : s.idx ≠ 8 := fun h => by simp [h] at h7
    exact if_neg h8
  have hgo := stepGoes_of_exec (out := []) ha (fetch_bodybyte hst hq he) hl hx (by simp [httx])
  rwa [htst, htidx] at hgo

/-- The rows at offset 8: the label and the answer are the verdict's (R144). -/
theorem stepGoes_verdict {t : State} {out : List Byte} (ha : Active s) (hst : s.st = .readingBlockBody)
    (hq : s.rxq = x :: xs) (he : x.err = false) (hi : s.idx = 8) (hv : verdict x.data s.popRx = .next t)
    (htx : t.tx = s.tx ++ out) : StepGoes s (verdictLabel x.data s) t.st t.idx out :=
  have hb := State.inBody_of_seqOk ha.seqOk ha.rdy hst
  stepGoes_of_exec ha (fetch_bodybyte hst hq he) (by simp [instrLabel, hi])
    ((execBodybyte_last (s := s.popRx) x.data hb hi).trans hv) htx

theorem stepGoes_framingError (ha : Active s) (hst : s.st = .readingBlockBody) (hq : s.rxq = x :: xs)
    (he : x.err = false) (hi : s.idx = 8) (hc : s.cmpOk = false) :
    StepGoes s .framingError .awaitingControl 0 [0x15] := by
  have hl : verdictLabel x.data s = .framingError := by simp [verdictLabel, hc]
  exact hl ▸ stepGoes_verdict ha hst hq he hi (verdict_framingError (s := s.popRx) hc) rfl

theorem stepGoes_checksumError (ha : Active s) (hst : s.st = .readingBlockBody) (hq : s.rxq = x :: xs)
    (he : x.err = false) (hi : s.idx = 8) (hc : s.cmpOk = true) (hs : s.sumOk x.data = false) :
    StepGoes s .checksumError .awaitingControl 0 [0x15] := by
  have hl : verdictLabel x.data s = .checksumError := by simp [verdictLabel, hc, hs]
  exact hl ▸ stepGoes_verdict ha hst hq he hi (verdict_checksumError (s := s.popRx) hc hs) rfl

theorem stepGoes_accept (ha : Active s) (hst : s.st = .readingBlockBody) (hq : s.rxq = x :: xs)
    (he : x.err = false) (hi : s.idx = 8) (hc : s.cmpOk = true) (hs : s.sumOk x.data = true)
    (hcap : s.msgCap = none) : StepGoes s .accept .awaitingControl 0 [0x06] :=
  verdictLabel_of_pass hc hs ▸ stepGoes_verdict ha hst hq he hi
    ((verdict_accept (s := s.popRx) hc hs).trans (accept_of_unbounded hcap)) rfl

end

/-- Settles O37, row by row: each row is the label and the meaning of the instruction fetched. -/
theorem transitionTable : Obligations.TransitionTable := by
  intro s hrst hok hcap
  refine ⟨stepGoes_ready hrst hok, fun hr x xs hq => ?rows, fun ht => ?terminal⟩
  case terminal =>
    obtain ⟨hl, hstep⟩ := step_terminal hrst hok ht
    exact ⟨hl, fun t h => by simpa [hstep] using h.symm⟩
  case rows =>
    have ha : Active s := ⟨hrst, hr, hok⟩
    refine ⟨?eot, ?blockStart, ?discard, ?ioFailureAtControl, ?bodyByte, ?framingError, ?checksumError, ?accept,
      ?ioFailureInBody⟩
    case eot => exact fun hst hx => stepGoes_eot ha hst (hx ▸ hq)
    case blockStart => exact fun hst hx => stepGoes_blockStart ha hst (hx ▸ hq)
    case discard => exact fun hst => stepGoes_discard ha hst hq
    case ioFailureAtControl => exact fun hst => stepGoes_ioFailure ha (.inl hst) hq
    case bodyByte => exact fun hst => stepGoes_bodyByte ha hst hq
    case framingError =>
      exact fun hst he hi hc => stepGoes_framingError ha hst hq he hi
        (Bool.eq_false_iff.mpr (mt (State.cmpOk_iff s).mp hc))
    case checksumError =>
      exact fun hst he hi hc hs => stepGoes_checksumError ha hst hq he hi ((State.cmpOk_iff s).mpr hc)
        (Bool.eq_false_iff.mpr (mt (State.sumOk_iff _ s).mp hs))
    case accept =>
      exact fun hst he hi hc hs => stepGoes_accept ha hst hq he hi ((State.cmpOk_iff s).mpr hc)
        ((State.sumOk_iff _ s).mpr hs) hcap
    case ioFailureInBody => exact fun hst => stepGoes_ioFailure ha (.inr hst) hq

/-! ## Status and reset values -/

theorem State.doneFlag_iff (s : State) : s.doneFlag = true ↔ s.st = .done := by
  simp [State.doneFlag]

theorem State.failFlag_iff (s : State) : s.failFlag = true ↔ s.st = .failed := by
  simp [State.failFlag]

theorem State.outcome_running_iff (s : State) :
    s.outcome = .running ↔ s.st = .awaitingControl ∨ s.st = .readingBlockBody := by
  cases hst : s.st <;> simp [State.outcome, hst]

theorem State.outcome_normalTermination_iff (s : State) : s.outcome = .normalTermination ↔ s.st = .done := by
  cases hst : s.st <;> simp [State.outcome, hst]

theorem State.outcome_ioFailure_iff (s : State) : s.outcome = .ioFailure ↔ s.st = .failed := by
  cases hst : s.st <;> simp [State.outcome, hst]

/-- `STATUS` is the outcome's code (R33, R34). -/
theorem State.status_eq_code (s : State) : s.status = s.outcome.code := by
  cases hst : s.st <;> simp [State.status, State.doneFlag, State.failFlag, State.outcome, hst, SessionOutcome.code]

theorem State.status_bit0 (s : State) : s.status.getLsbD 0 = s.doneFlag := by
  unfold State.status
  cases s.failFlag <;> cases s.doneFlag <;> rfl

theorem State.status_bit1 (s : State) : s.status.getLsbD 1 = s.failFlag := by
  unfold State.status
  cases s.failFlag <;> cases s.doneFlag <;> rfl

theorem SessionOutcome.code_ne_both (o : SessionOutcome) : o.code ≠ 0b11#2 := by
  cases o <;> decide

/-- Settles O31, from one lemma for each function of `st`. -/
theorem statusFollowsState : Obligations.StatusFollowsState := by
  intro s
  have hnotBoth : ¬ (s.doneFlag = true ∧ s.failFlag = true) := by
    rw [State.doneFlag_iff, State.failFlag_iff]
    rintro ⟨hd, hf⟩
    simp [hd] at hf
  exact ⟨s.doneFlag_iff, s.failFlag_iff, hnotBoth, s.outcome_running_iff, s.outcome_normalTermination_iff,
    s.outcome_ioFailure_iff, s.status_eq_code, s.status_bit0, s.status_bit1,
    s.status_eq_code ▸ s.outcome.code_ne_both, s.msg.length_bytes.symm⟩

/-- Settles O13: each value is read off `State.reset`. -/
theorem resetStateValues : Obligations.ResetStateValues := by
  unfold Obligations.ResetStateValues
  decide

end Sys2Proof.Machine
end

section
/-! SUPPORT. The Message only grows (R68, R71, 20_memory.md): out of reset every event appends to the store, so a run of
them is one append. -/

namespace Sys2Proof.Machine

/-! ## Appends -/

@[simp] theorem Memory.append_nil (m : Memory) : m.append [] = m := by
  simp [Memory.append, Memory.cellsFrom]

theorem Memory.cellsFrom_append (a : Nat) (bs cs : List Byte) :
    Memory.cellsFrom a (bs ++ cs) = Memory.cellsFrom a bs ++ Memory.cellsFrom (a + bs.length) cs := by
  induction bs generalizing a with
  | nil => rfl
  | cons b bs ih => simp [Memory.cellsFrom, ih, Nat.add_assoc, Nat.add_comm 1]

/-- Two appends are one. -/
theorem Memory.append_append (m : Memory) (bs cs : List Byte) :
    (m.append bs).append cs = m.append (bs ++ cs) := by
  simp [Memory.append, Memory.mlen, Memory.cellsFrom_append]

/-- An append leaves every address below the old length as it was (R70). -/
theorem Memory.read_append_of_lt {m : Memory} (hm : m.wf = true) (bs : List Byte) {a : Nat} (ha : a < m.mlen) :
    (m.append bs).read a = m.read a := by
  rw [Memory.read_eq _ (Memory.wf_append m bs hm), Memory.read_eq _ hm, Memory.bytes_append]
  exact List.getElem?_append_left (by rwa [Memory.length_bytes])

/-! ## Events and the Message -/

theorem runEvents_cons_next {e : Event} {es : List Event} {s t : State} :
    runEvents (e :: es) s = .next t ↔ ∃ u, applyEvent e s = .next u ∧ runEvents es u = .next t := by
  cases he : applyEvent e s <;> simp [runEvents, he]

/-- No step writes the reset input (R261). -/
theorem step_rst {s t : State} (h : step s = .next t) : t.rst = s.rst := by
  cases step_cases h <;> simp [*]

theorem step_msg_append {s t : State} (hrst : s.rst = false) (h : step s = .next t) :
    ∃ bs, t.msg = s.msg.append bs := by
  obtain ⟨-, hmsg⟩ | ⟨-, hmsg⟩ := step_msg hrst h
  · exact ⟨_, hmsg⟩
  · exact ⟨[], by rw [hmsg, Memory.append_nil]⟩

theorem applyEvent_rst {e : Event} {s t : State} (he : e.notReset = true) (h : applyEvent e s = .next t) :
    t.rst = s.rst := by
  cases e with
  | tick => exact step_rst h
  | arrive x => cases h; rfl
  | setRst l => cases he

theorem applyEvent_msg_append {e : Event} {s t : State} (hrst : s.rst = false) (h : applyEvent e s = .next t) :
    ∃ bs, t.msg = s.msg.append bs := by
  cases e with
  | tick => exact step_msg_append hrst h
  | arrive x => cases h; exact ⟨[], (Memory.append_nil _).symm⟩
  | setRst l => cases h; exact ⟨[], (Memory.append_nil _).symm⟩

/-- Out of reset a run's whole effect on the Message is one append (R68). -/
theorem runEvents_msg_append {es : List Event} {s t : State} (hrst : s.rst = false)
    (hes : ∀ e ∈ es, e.notReset = true) (h : runEvents es s = .next t) :
    ∃ bs, t.msg = s.msg.append bs := by
  induction es generalizing s with
  | nil => cases h; exact ⟨[], (Memory.append_nil _).symm⟩
  | cons e es ih =>
    obtain ⟨u, he, hu⟩ := runEvents_cons_next.mp h
    obtain ⟨hfirst, hrest⟩ := List.forall_mem_cons.mp hes
    obtain ⟨bs, hbs⟩ := applyEvent_msg_append hrst he
    obtain ⟨cs, hcs⟩ := ih ((applyEvent_rst hfirst he).trans hrst) hrest hu
    exact ⟨bs ++ cs, by rw [hcs, hbs, Memory.append_append]⟩

/-- Settles O39: `step_msg` read as sequences of bytes. -/
theorem messageGrowsByWholeAcceptedPayloads : Obligations.MessageGrowsByWholeAcceptedPayloads := by
  intro s t hrst h
  obtain ⟨hl, hmsg⟩ | hother := step_msg hrst h
  · exact .inl ⟨hl, by rw [hmsg, Memory.bytes_append]; rfl⟩
  · exact .inr hother

/-- Settles O40: a run without a reset is one append, and the reset edge is `takeReset`. -/
theorem messageIsAppendOnly : Obligations.MessageIsAppendOnly := by
  refine ⟨fun es s t hrst hes hwf h => ?run, fun s t hrst h => ?resetEdge⟩
  case run =>
    obtain ⟨bs, hmsg⟩ := runEvents_msg_append hrst hes h
    rw [hmsg, Memory.bytes_append]
    exact ⟨List.prefix_append _ _, Memory.wf_append _ _ hwf, fun _ => Memory.read_append_of_lt hwf bs⟩
  case resetEdge =>
    have ht : t = s.takeReset := by simpa [step, hrst] using h.symm
    rw [ht]; rfl

end Sys2Proof.Machine
end

section
/-! SUPPORT. The decoder at control and the cutting of a stream into units (R106, R107, 30_encoding.md): the class of
each symbol from what it decodes to, and a body read from the symbols it takes. -/

namespace Sys2Proof

/-! ## The rows of the control table -/

/-- Two rows that disagree on a bit both examine take no symbol in common. -/
theorem Row.not_takes_both {r q : Row} (hne : r.value &&& q.mask ≠ q.value &&& r.mask) {x : Symbol}
    (hr : r.takes x = true) (hq : q.takes x = true) : False := by
  simp only [Row.takes, beq_iff_eq] at hr hq
  exact hne (by rw [← hr, ← hq, BitVec.and_assoc, BitVec.and_assoc, BitVec.and_comm r.mask])

/-- Any two control rows disagree on a bit both examine, so the rows are disjoint (R107). -/
theorem controlRows_pairwise_disagree :
    controlRows.Pairwise (fun r q => r.value &&& q.mask ≠ q.value &&& r.mask) := by
  decide

theorem length_takes_controlRows_le_one (x : Symbol) : (controlRows.filter (fun r => r.takes x)).length ≤ 1 := by
  have hdis := controlRows_pairwise_disagree.filter (fun r => r.takes x)
  have htakes : ∀ r ∈ controlRows.filter (fun r => r.takes x), r.takes x = true := fun r hr =>
    (List.mem_filter.mp hr).2
  generalize controlRows.filter (fun r => r.takes x) = rows at hdis htakes ⊢
  match rows with
  | [] | [_] => simp
  | r :: q :: _ =>
    exact (Row.not_takes_both (List.rel_of_pairwise_cons hdis (.head _)) (htakes r (.head _))
      (htakes q (.tail _ (.head _)))).elim

/-- A symbol that decodes is taken by some row. -/
theorem exists_takes_of_decodeRx {ctx : DecodeContext} {x : Symbol} {i : Instr} (h : decodeRx ctx x = .ok i) :
    ∃ r ∈ rowsOf ctx, r.takes x = true := by
  cases hf : (rowsOf ctx).find? (fun r => r.takes x) with
  | none => simp [decodeRx, hf] at h
  | some r => exact ⟨r, List.mem_of_find?_eq_some hf, List.find?_some (p := fun r : Row => r.takes x) hf⟩

/-! ## The class of a symbol from its decoding -/

theorem decodeRx_control_total (x : Symbol) : ∃ i, decodeRx .control x = .ok i := by
  obtain ⟨-, hd⟩ | ⟨-, hd⟩ | ⟨-, hd⟩ | ⟨-, -, -, i, hd, -⟩ := decodeRx_control_cases x
  all_goals exact ⟨_, hd⟩

theorem decodeRx_control_eot_iff (x : Symbol) : decodeRx .control x = .ok .eot ↔ x = 0x004 := by
  refine ⟨fun h => ?_, fun h => h ▸ decodeRx_control_eot⟩
  obtain ⟨hx, -⟩ | ⟨-, hd⟩ | ⟨-, hd⟩ | ⟨-, -, -, i, hd, hn⟩ := decodeRx_control_cases x
  · exact hx
  all_goals cases hd.symm.trans h
  cases hn

theorem decodeRx_control_block_iff (x : Symbol) : decodeRx .control x = .ok .block ↔ x = 0x001 := by
  refine ⟨fun h => ?_, fun h => h ▸ decodeRx_control_block⟩
  obtain ⟨-, hd⟩ | ⟨hx, -⟩ | ⟨-, hd⟩ | ⟨-, -, -, i, hd, hn⟩ := decodeRx_control_cases x
  case inr.inl => exact hx
  all_goals cases hd.symm.trans h
  cases hn

theorem decodeRx_control_rxerr_iff (x : Symbol) :
    (∃ d, decodeRx .control x = .ok (.rxerr d)) ↔ x.err = true := by
  refine ⟨fun ⟨d, h⟩ => ?_, fun h => ⟨_, decodeRx_control_err x h⟩⟩
  obtain ⟨-, hd⟩ | ⟨-, hd⟩ | ⟨he, -⟩ | ⟨-, -, -, i, hd, hn⟩ := decodeRx_control_cases x
  case inr.inr.inl => exact he
  all_goals cases hd.symm.trans h
  cases hn

theorem decodeRx_control_noise_iff (x : Symbol) :
    (∃ i, decodeRx .control x = .ok i ∧ i.noiseByte = some x.data) ↔
      x.err = false ∧ x ≠ 0x004 ∧ x ≠ 0x001 := by
  refine ⟨fun ⟨i, h, hn⟩ => ?_, fun ⟨he, h4, h1⟩ => decodeRx_control_noise x he h4 h1⟩
  obtain ⟨-, hd⟩ | ⟨-, hd⟩ | ⟨-, hd⟩ | ⟨he, h4, h1, -⟩ := decodeRx_control_cases x
  case inr.inr.inr => exact ⟨he, h4, h1⟩
  all_goals
    cases hd.symm.trans h
    cases hn

/-- Settles O2: some row takes the symbol since it decodes, no second one does since the rows disagree, and the
classes are read off the decoding. -/
theorem controlDecodingTotalUnambiguous : Obligations.ControlDecodingTotalUnambiguous := by
  intro x
  obtain ⟨i, hd⟩ := decodeRx_control_total x
  have hsome : 0 < (controlRows.filter (fun r => r.takes x)).length :=
    List.length_filter_pos_iff.mpr (exists_takes_of_decodeRx hd)
  exact ⟨le_antisymm (length_takes_controlRows_le_one x) hsome, decodeRx_control_eot_iff x,
    decodeRx_control_block_iff x, decodeRx_control_rxerr_iff x, decodeRx_control_noise_iff x⟩

/-! ## A frame and its eight body bytes -/

theorem Frame.eq_body_of_ofBody {bs : List Byte} {f : Frame} (h : Frame.ofBody bs = some f) : bs = f.body := by
  unfold Frame.ofBody at h
  split at h <;> cases h
  rfl

theorem Frame.exists_body_eq {bs : List Byte} (h : bs.length = 8) : ∃ f : Frame, f.body = bs :=
  match bs, h with
  | [n, c, p0, p1, p2, p3, p4, k], _ => ⟨⟨n, c, p0, p1, p2, p3, p4, k⟩, rfl⟩

@[simp] theorem Frame.length_body (f : Frame) : f.body.length = 8 := rfl

/-! ## Reading a body -/

/-- As many bytes as asked for are read whole. -/
theorem readBody_bytes (bs : List Byte) (rest : List Symbol) :
    readBody bs.length (bs.map byteSymbol ++ rest) = .full bs rest := by
  induction bs with
  | nil => rfl
  | cons b bs ih => simp [readBody, ih, BodyRead.push]

/-- An `Err` after fewer bytes than asked for ends the read (R63, R106). -/
theorem readBody_bytes_err {bs : List Byte} {m : Nat} {e : Symbol} (rest : List Symbol) (hm : bs.length < m)
    (he : e.err = true) : readBody m (bs.map byteSymbol ++ e :: rest) = .errAfter bs.length rest := by
  induction bs generalizing m with
  | nil =>
    obtain ⟨m, rfl⟩ := Nat.exists_eq_add_one.mpr hm
    simp [readBody, he]
  | cons b bs ih =>
    obtain ⟨m, rfl⟩ := Nat.exists_eq_add_one.mpr (Nat.zero_lt_of_lt hm)
    simp [readBody, ih (Nat.lt_of_succ_lt_succ hm), BodyRead.push]

theorem BodyRead.push_eq_full {b : Byte} {r : BodyRead} {bs : List Byte} {rest : List Symbol}
    (h : r.push b = .full bs rest) : ∃ cs, bs = b :: cs ∧ r = .full cs rest := by
  cases r <;> cases h
  exact ⟨_, rfl, rfl⟩

theorem BodyRead.push_eq_errAfter {b : Byte} {r : BodyRead} {j : Nat} {rest : List Symbol}
    (h : r.push b = .errAfter j rest) : ∃ k, j = k + 1 ∧ r = .errAfter k rest := by
  cases r <;> cases h
  exact ⟨_, rfl, rfl⟩

/-- A whole body is the symbols of its bytes, as many as were asked for. -/
theorem eq_of_readBody_full {m : Nat} {xs rest : List Symbol} {bs : List Byte}
    (h : readBody m xs = .full bs rest) : bs.length = m ∧ xs = bs.map byteSymbol ++ rest := by
  induction m generalizing xs bs with
  | zero => cases h; exact ⟨rfl, rfl⟩
  | succ m ih =>
    cases xs with
    | nil => cases h
    | cons x xs =>
      cases he : x.err with
      | true => simp [readBody, he] at h
      | false =>
        obtain ⟨cs, rfl, hr⟩ := BodyRead.push_eq_full (by simpa [readBody, he] using h)
        obtain ⟨hlen, hxs⟩ := ih hr
        simp [hlen, ← hxs, ← eq_byteSymbol_of_err x he]

/-- A body read that met an `Err` after `j` bytes was given those bytes and the `Err`. -/
theorem eq_of_readBody_errAfter {m j : Nat} {xs rest : List Symbol} (h : readBody m xs = .errAfter j rest) :
    ∃ (bs : List Byte) (e : Symbol), bs.length = j ∧ j < m ∧ e.err = true ∧ xs = bs.map byteSymbol ++ e :: rest := by
  induction m generalizing xs j with
  | zero => cases h
  | succ m ih =>
    cases xs with
    | nil => cases h
    | cons x xs =>
      cases he : x.err with
      | true =>
        obtain ⟨rfl, rfl⟩ : 0 = j ∧ xs = rest := by simpa [readBody, he] using h
        exact ⟨[], x, rfl, m.succ_pos, he, rfl⟩
      | false =>
        obtain ⟨k, rfl, hr⟩ := BodyRead.push_eq_errAfter (by simpa [readBody, he] using h)
        obtain ⟨bs, e, hlen, hk, hee, hxs⟩ := ih hr
        exact ⟨x.data :: bs, e, by simp [hlen], Nat.succ_lt_succ hk, hee,
          by simp [hxs, ← eq_byteSymbol_of_err x he]⟩

/-! ## Cutting a unit -/

/-- Every first symbol but SOH is a unit by itself. -/
theorem cutUnit_single {x : Symbol} (xs : List Symbol) (hx : x ≠ 0x001) :
    ∃ i, cutUnit (x :: xs) = some (.single i, xs) := by
  obtain ⟨i, hd⟩ := decodeRx_control_total x
  have hi : i ≠ .block := fun h => hx ((decodeRx_control_block_iff x).mp (h ▸ hd))
  exact ⟨i, by simp [cutUnit, hd]⟩

section
variable {xs rest : List Symbol}

/-! What is cut at a start marker, by the answer of the body read. -/

theorem cutUnit_soh_of_full {bs : List Byte} (h : readBody 8 xs = .full bs rest) :
    cutUnit (0x001 :: xs) = (Frame.ofBody bs).map (fun f => (.block f, rest)) := by
  simp only [cutUnit, decodeRx_control_block, h]

theorem cutUnit_soh_of_errAfter {j : Nat} (h : readBody 8 xs = .errAfter j rest) :
    cutUnit (0x001 :: xs) = some (.truncated (j + 1), rest) := by
  simp only [cutUnit, decodeRx_control_block, h]

theorem cutUnit_soh_of_short (h : readBody 8 xs = .short) : cutUnit (0x001 :: xs) = none := by
  simp only [cutUnit, decodeRx_control_block, h]

end

/-- A start marker and the eight bytes of a frame are cut as its block (R103). -/
theorem cutUnit_block (f : Frame) (rest : List Symbol) :
    cutUnit (0x001 :: (f.body.map byteSymbol ++ rest)) = some (.block f, rest) :=
  cutUnit_soh_of_full (readBody_bytes f.body rest)

/-- A start marker, fewer than eight bytes and an `Err` are cut as a truncated block. -/
theorem cutUnit_truncated {bs : List Byte} {e : Symbol} (rest : List Symbol) (h7 : bs.length ≤ 7)
    (he : e.err = true) :
    cutUnit (0x001 :: (bs.map byteSymbol ++ e :: rest)) = some (.truncated (bs.length + 1), rest) :=
  cutUnit_soh_of_errAfter (readBody_bytes_err rest (Nat.lt_succ_of_le h7) he)

/-- Nothing but a block and a truncated block is cut at a start marker. -/
theorem cutUnit_soh_cases {xs rest : List Symbol} {u : StreamUnit} (h : cutUnit (0x001 :: xs) = some (u, rest)) :
    (∃ f : Frame, u = .block f ∧ xs = f.body.map byteSymbol ++ rest) ∨
    (∃ (bs : List Byte) (e : Symbol), u = .truncated (bs.length + 1) ∧ bs.length ≤ 7 ∧ e.err = true ∧
      xs = bs.map byteSymbol ++ e :: rest) := by
  cases hread : readBody 8 xs with
  | full bs ys =>
    obtain ⟨f, hf, rfl, rfl⟩ : ∃ f, Frame.ofBody bs = some f ∧ .block f = u ∧ ys = rest := by
      rw [cutUnit_soh_of_full hread] at h
      simpa using h
    obtain ⟨-, hxs⟩ := eq_of_readBody_full hread
    exact .inl ⟨f, rfl, Frame.eq_body_of_ofBody hf ▸ hxs⟩
  | errAfter j ys =>
    cases (cutUnit_soh_of_errAfter hread).symm.trans h
    obtain ⟨bs, e, rfl, h8, he, hxs⟩ := eq_of_readBody_errAfter hread
    exact .inr ⟨bs, e, rfl, Nat.le_of_lt_succ h8, he, hxs⟩
  | short => cases (cutUnit_soh_of_short hread).symm.trans h

theorem exists_getElem?_byteSymbols (bs : List Byte) (ys : List Symbol) {m : Nat} (hm : m < bs.length) :
    ∃ e, (bs.map byteSymbol ++ ys)[m]? = some e ∧ e.err = false :=
  ⟨byteSymbol bs[m], by simp [List.getElem?_append_left, hm], byteSymbol_err _⟩

/-- Settles O6: the two forms cut at a start marker, and the inversion that there is no third. -/
theorem unitLengthFollowsFirstSymbol : Obligations.UnitLengthFollowsFirstSymbol := by
  refine ⟨fun x xs hx => ?single, fun bs rest h8 => ?block, fun bs e rest h7 he => ?truncated,
    fun xs rest u h => ?converse⟩
  case single =>
    obtain ⟨i, hi⟩ := cutUnit_single xs hx
    exact ⟨i, hi, rfl⟩
  case block =>
    obtain ⟨f, rfl⟩ := Frame.exists_body_eq h8
    exact ⟨f, rfl, rfl, cutUnit_block f rest⟩
  case truncated => exact ⟨cutUnit_truncated rest h7 he, rfl⟩
  case converse =>
    obtain ⟨f, rfl, rfl⟩ | ⟨bs, e, rfl, h7, he, rfl⟩ := cutUnit_soh_cases h
    · exact ⟨by simp [StreamUnit.length, Config.blockLen], rfl,
        .inl ⟨f, rfl, rfl, fun _ => exists_getElem?_byteSymbols f.body rest⟩⟩
    · exact ⟨by simp [StreamUnit.length], by simp [StreamUnit.length, List.drop_append],
        .inr ⟨bs.length + 1, rfl, rfl, by simp, by omega, ⟨e, by simp, he⟩,
          fun _ => exists_getElem?_byteSymbols bs _⟩⟩

end Sys2Proof
end

section
/-! SUPPORT. EOT (R130, 40_eot.md) and the flags of the state it ends in (R32, R33, 10_state.md). -/

namespace Sys2Proof.Machine

theorem State.flags_of_done {s : State} (hst : s.st = .done) :
    s.doneFlag = true ∧ s.failFlag = false ∧ s.outcome = .normalTermination :=
  ⟨(State.doneFlag_iff s).mpr hst, by simp [State.failFlag, hst],
    (State.outcome_normalTermination_iff s).mpr hst⟩

/-- Settles O14: at control `execEot` has one answer, and its flags and outcome are those of `Done`. -/
theorem eotAcknowledgesAndTerminates : Obligations.EotAcknowledgesAndTerminates := by
  refine ⟨decodeRx_control_eot, fun _ => rfl, fun s hr hst hi => ?_⟩
  have hc : s.atControl = true := (State.atControl_iff s).mpr ⟨hr, hst, hi⟩
  exact ⟨_, execEot_of_atControl hc, rfl, State.flags_of_done rfl⟩

end Sys2Proof.Machine
end

section
/-! SUPPORT. The two checks of a block (R145, R146, 41_block.md): the forms of the complement check, and the checksum as
the payload's integer sum mod 256. -/

namespace Sys2Proof.Machine

/-! ## The complement check -/

theorem complementOk_iff (n c : Byte) : complementOk n c = true ↔ c = 255 - n := by
  simp [complementOk]

theorem complementOk_iff_toNat (n c : Byte) : complementOk n c = true ↔ c.toNat = 255 - n.toNat := by
  rw [complementOk_iff]
  bv_omega

theorem complementOk_iff_add (n c : Byte) : complementOk n c = true ↔ n.toNat + c.toNat = 255 := by
  rw [complementOk_iff_toNat]
  omega

theorem complementOk_iff_not (n c : Byte) : complementOk n c = true ↔ c = ~~~n := by
  rw [complementOk_iff_toNat, ← BitVec.toNat_inj, BitVec.toNat_not]

theorem complementOk_iff_xor (n c : Byte) : complementOk n c = true ↔ n ^^^ c = 0xFF := by
  have hones : n ^^^ ~~~n = 0xFF := by
    rw [← BitVec.xor_allOnes, ← BitVec.xor_assoc, BitVec.xor_self]
    rfl
  rw [complementOk_iff_not, ← hones, BitVec.xor_right_inj]

theorem existsUnique_complementOk (n : Byte) : ∃! c : Byte, complementOk n c = true :=
  ⟨255 - n, (complementOk_iff n _).mpr rfl, fun c => (complementOk_iff n c).mp⟩

/-- Settles O27: each form is the defining equation `c = 255 - n` read another way, and the verdict asks it first. -/
theorem complementCheckForms : Obligations.ComplementCheckForms :=
  ⟨fun n =>
      ⟨fun c => ⟨complementOk_iff_toNat n c, complementOk_iff_add n c, complementOk_iff_not n c,
        complementOk_iff_xor n c⟩, existsUnique_complementOk n⟩,
    fun _ _ => ⟨rfl, fun hc => if_pos hc⟩⟩

/-! ## The checksum -/

theorem payloadSum_toNat (p0 p1 p2 p3 p4 : Byte) :
    (payloadSum p0 p1 p2 p3 p4).toNat =
      (p0.toNat + p1.toNat + p2.toNat + p3.toNat + p4.toNat) % 256 := by
  simp [payloadSum_eq, BitVec.toNat_add]

/-- At the checksum byte all five payload bytes have been summed (R143). -/
theorem capturedSum_eight (p : PayRegs) : capturedSum p 8 = payloadSum p.p0 p.p1 p.p2 p.p3 p.p4 := rfl

/-- Settles O28: at offset 8 the invariant makes `sum` the payload's sum, and the check compares with `sum`. -/
theorem checksumCheckIsPayloadSum : Obligations.ChecksumCheckIsPayloadSum := by
  intro s hi hst hidx
  have hsum : s.sum = payloadSum s.pay.p0 s.pay.p1 s.pay.p2 s.pay.p3 s.pay.p4 := by
    rw [hi.sumTracks hst, hidx]
    exact capturedSum_eight s.pay
  refine ⟨fun k => ?_, s.sum, (State.sumOk_iff _ s).mpr rfl, fun k => (State.sumOk_iff k s).mp⟩
  rw [State.sumOk_iff, hsum, ← payloadSum_toNat, BitVec.toNat_inj]

end Sys2Proof.Machine
end

section
/-! SUPPORT. BLOCK and BODYBYTE, one symbol at a time (R140 to R148, 41_block.md; R153): the start, the capture of a
body byte before the last, and the accepting verdict. -/

namespace Sys2Proof.Machine

/-! ## Offset 0 -/

/-- Settles O15: at control `execBlock` has one answer, the named update `startBlock`. -/
theorem blockStartSetsOffsetOne : Obligations.BlockStartSetsOffsetOne :=
  ⟨decodeRx_control_block, fun _ => rfl, fun s hr hst hi =>
    execBlock_of_atControl ((State.atControl_iff s).mpr ⟨hr, hst, hi⟩)⟩

/-! ## Offsets 1 to 7 -/

/-- What a body byte writes into the staging registers, by the field it is (R141 to R143). -/
def State.stageByte (b : Byte) (s : State) : State :=
  match fieldAt s.idx with
  | some .sequence => s.setSeq b
  | some .complement => s.setCmp b
  | some (.payload j) => (s.setPay j b).setSum (addMod256 s.sum b)
  | some .checksum => s
  | none => s

theorem State.stageByte_sequence {s : State} (b : Byte) (hi : s.idx = 1) : s.stageByte b = s.setSeq b := by
  have hf : fieldAt s.idx = some .sequence := by rw [hi]; rfl
  simp [State.stageByte, hf]

theorem State.stageByte_complement {s : State} (b : Byte) (hi : s.idx = 2) : s.stageByte b = s.setCmp b := by
  have hf : fieldAt s.idx = some .complement := by rw [hi]; rfl
  simp [State.stageByte, hf]

theorem State.stageByte_payload {s : State} (b : Byte) (j : Fin 5) (hi : s.idx = BitVec.ofNat 4 (3 + j.val)) :
    s.stageByte b = (s.setPay j b).setSum (s.sum + b) := by
  have hf : fieldAt s.idx = some (.payload j) := by rw [hi, fieldAt_payload]
  simp [State.stageByte, hf]

/-- Staging a byte writes staging registers alone (R28). -/
theorem State.stageByte_frame (b : Byte) (s : State) :
    s.stageByte b =
      { s with seq := (s.stageByte b).seq, cmp := (s.stageByte b).cmp, sum := (s.stageByte b).sum,
               pay := (s.stageByte b).pay } := by
  unfold State.stageByte
  split <;> rfl

section
variable (b : Byte) (s : State)

@[simp] theorem State.stageByte_rdy : (s.stageByte b).rdy = s.rdy := by rw [State.stageByte_frame]
@[simp] theorem State.stageByte_idx : (s.stageByte b).idx = s.idx := by rw [State.stageByte_frame]
@[simp] theorem State.stageByte_msg : (s.stageByte b).msg = s.msg := by rw [State.stageByte_frame]
@[simp] theorem State.stageByte_tx : (s.stageByte b).tx = s.tx := by rw [State.stageByte_frame]
@[simp] theorem State.stageByte_rxn : (s.stageByte b).rxn = s.rxn := by rw [State.stageByte_frame]
@[simp] theorem State.stageByte_rxq : (s.stageByte b).rxq = s.rxq := by rw [State.stageByte_frame]
@[simp] theorem State.stageByte_rst : (s.stageByte b).rst = s.rst := by rw [State.stageByte_frame]
@[simp] theorem State.stageByte_msgCap : (s.stageByte b).msgCap = s.msgCap := by rw [State.stageByte_frame]

end

/-- Before the last offset a body byte is staged and the offset moves on (R141 to R143). -/
theorem execBodybyte_of_ne_eight {s : State} (b : Byte) (hb : s.inBody = true) (h8 : s.idx ≠ 8) :
    execBodybyte b s = .next (s.stageByte b).nextOffset := by
  obtain ⟨-, -, hlo, hhi⟩ := (State.inBody_iff s).mp hb
  obtain ⟨-, hf⟩ | ⟨-, hf⟩ | ⟨j, -, hf⟩ | ⟨hi, -⟩ := fieldAt_cases s.idx hlo hhi
  · simp [execBodybyte, hb, State.stageByte, hf]
  · simp [execBodybyte, hb, State.stageByte, hf]
  · simp [execBodybyte, hb, State.stageByte, hf]
  · exact absurd hi h8

/-- Within a block `nextOffset` writes `idx` alone (R22). -/
theorem State.nextOffset_of_reading {s : State} {i : BitVec 4} (hst : s.st = .readingBlockBody)
    (hi : s.idx + 1 = i) : s.nextOffset = { s with idx := i } := by
  rw [State.nextOffset, State.goto, hi, ← hst]

theorem payloadOffset_succ (j : Fin 5) : BitVec.ofNat 4 (3 + j.val) + 1 = BitVec.ofNat 4 (4 + j.val) := by
  revert j
  decide

/-- Settles O17: the staged register of each offset, then `nextOffset`. -/
theorem bodyBytesAreCaptured : Obligations.BodyBytesAreCaptured := by
  intro s b hr hst
  have hexec : 1 ≤ s.idx → s.idx ≤ 7 → exec (.bodybyte b) s = .next (s.stageByte b).nextOffset := fun h1 h7 =>
    execBodybyte_of_ne_eight b ((State.inBody_iff s).mpr ⟨hr, hst, h1, by bv_omega⟩) (by bv_omega)
  refine ⟨fun hi => ?sequence, fun hi => ?complement, fun j hj => ?payload, fun h8 => if_neg h8⟩
  case sequence =>
    rw [hexec (by simp [hi]) (by simp [hi]), State.stageByte_sequence b hi,
      State.nextOffset_of_reading (s := s.setSeq b) (i := 2) hst (by simp [hi])]
    rfl
  case complement =>
    rw [hexec (by simp [hi]) (by simp [hi]), State.stageByte_complement b hi,
      State.nextOffset_of_reading (s := s.setCmp b) (i := 3) hst (by simp [hi])]
    rfl
  case payload =>
    have hi : s.idx = BitVec.ofNat 4 (3 + j.val) := BitVec.eq_of_toNat_eq (by rw [hj]; simp; omega)
    have hsum : BitVec.ofNat 8 ((s.sum.toNat + b.toNat) % 256) = s.sum + b :=
      BitVec.eq_of_toNat_eq (by simp)
    obtain ⟨h1, h7⟩ := payloadOffset_inRange j
    refine ⟨s.pay.set b j, by simp [PayRegs.get_set], fun m hm => by simp [PayRegs.get_set, hm.symm], ?_⟩
    rw [hexec (hi ▸ h1) (hi ▸ h7), State.stageByte_payload b j hi, hsum,
      State.nextOffset_of_reading (s := (s.setPay j b).setSum (s.sum + b)) hst
        ((congrArg (· + 1) hi).trans (payloadOffset_succ j))]
    rfl

/-! ## Offset 8, both checks passed -/

/-- An append fits when no finite capacity is exceeded (R72). -/
theorem State.fits_iff (s : State) (n : Nat) :
    s.fits n = true ↔ ∀ cap, s.msgCap = some cap → s.msg.mlen + n ≤ cap := by
  cases hcap : s.msgCap <;> simp [State.fits, hcap]

theorem accept_of_fits {s : State} (hf : s.fits (stripPadding s.pay.toList).length = true) :
    accept s =
      .next (((s.msgAppend (stripPadding s.pay.toList)).txWrite Config.ACK).goto .awaitingControl 0) := by
  simp [accept, hf]

/-- The appended bytes stand from the old length on (R70). -/
theorem Memory.read_append_add {m : Memory} (hm : m.wf = true) (bs : List Byte) (j : Nat) :
    (m.append bs).read (m.mlen + j) = bs[j]? := by
  rw [Memory.read_eq _ (Memory.wf_append m bs hm), Memory.bytes_append, ← Memory.length_bytes,
    List.getElem?_append_right (Nat.le_add_right _ j), Nat.add_sub_cancel_left]

/-- No byte is held past the length (R69). -/
theorem Memory.read_of_le {m : Memory} (hm : m.wf = true) {a : Nat} (ha : m.mlen ≤ a) : m.read a = none := by
  rw [Memory.read_eq _ hm]
  exact List.getElem?_eq_none (by rwa [Memory.length_bytes])

/-- Settles O20: the verdict is `accept`, whose append fits, and the rest is what an append does to the store. -/
theorem validBlockIsAppendedAndAcknowledged : Obligations.ValidBlockIsAppendedAndAcknowledged := by
  intro s k kept hr hst hi hcmp hk hwf hkept hcap
  have hb : s.inBody = true := (State.inBody_iff s).mpr ⟨hr, hst, by simp [hi], by simp [hi]⟩
  have hc : s.cmpOk = true := (complementOk_iff_toNat s.seq s.cmp).mpr hcmp
  have hs : s.sumOk k = true := (State.sumOk_iff k s).mpr hk
  have hstrip : stripPadding s.pay.toList = kept := hkept.symm
  have hexec : exec (.bodybyte k) s = accept s := (execBodybyte_last k hb hi).trans (verdict_accept hc hs)
  have hlong : (s.msg.append kept).mlen = s.msg.mlen + kept.length := Memory.mlen_append _ _
  refine ⟨verdictLabel_of_pass hc hs, s.msg.append kept, ?_, Memory.bytes_append _ _, hlong,
    Memory.wf_append _ _ hwf, fun a => Memory.read_append_of_lt hwf kept,
    fun j _ => Memory.read_append_add hwf kept j, fun a ha => ?_⟩
  · rw [hexec, accept_of_fits (by rw [hstrip]; exact (State.fits_iff s _).mpr hcap), hstrip]
    rfl
  · rw [Memory.read_of_le (Memory.wf_append _ _ hwf) (hlong ▸ ha), Memory.read_of_le hwf (by omega)]

/-! ## A step within a block -/

theorem Active.of_inBody {s : State} (hrst : s.rst = false) (hb : s.inBody = true) : Active s :=
  have ⟨hr, hst, hoff⟩ := (State.inBody_iff s).mp hb
  ⟨hrst, hr, (State.seqOk_iff s).mpr ⟨fun _ => hoff, fun hne => absurd hst hne, fun h => by simp [hr] at h⟩⟩

theorem step_bodybyte {s : State} {b : Byte} {xs : List Symbol} (hrst : s.rst = false) (hb : s.inBody = true)
    (hq : s.rxq = byteSymbol b :: xs) : step s = execBodybyte b s.popRx := by
  have hf : s.fetch = .instr (.bodybyte b) := by
    simpa using fetch_bodybyte (State.st_of_inBody hb) hq (byteSymbol_err b)
  rw [step_active (Active.of_inBody hrst hb), hf]
  rfl

/-- Whatever the checks say, the offset-8 step is back at control and takes nothing more from the queue (R144). -/
theorem verdict_returns {k : Byte} {s t : State} (h : verdict k s = .next t) :
    t.st = .awaitingControl ∧ t.idx = 0 ∧ t.rxq = s.rxq := by
  obtain ⟨-, ht⟩ | ⟨-, -, hacc⟩ := verdict_next h
  · subst ht
    exact ⟨rfl, rfl, rfl⟩
  · obtain ⟨-, ht⟩ := accept_next hacc
    subst ht
    exact ⟨rfl, rfl, rfl⟩

/-- Settles O47: every byte value executes BODYBYTE, which stages it before offset 8 and is the verdict there. -/
theorem bodyBytesHaveNoControlMeaning : Obligations.BodyBytesHaveNoControlMeaning := by
  intro s t b xs hrst hb hq h
  rw [step_bodybyte hrst hb hq] at h
  by_cases h8 : s.idx = 8
  · rw [execBodybyte_last (s := s.popRx) b hb h8] at h
    obtain ⟨hst, hidx, hrxq⟩ := verdict_returns h
    exact ⟨fun hne => absurd h8 hne, fun _ => ⟨hst, hidx, (State.outcome_running_iff t).mpr (.inl hst)⟩,
      by simp [hrxq, hq]⟩
  · rw [execBodybyte_of_ne_eight (s := s.popRx) b hb h8] at h
    cases h
    exact ⟨fun _ => ⟨rfl, by simp, by simp, by simp, rfl⟩, fun h => absurd h h8, by simp [hq]⟩

end Sys2Proof.Machine
end

section
/-! SUPPORT. The nine steps of a block (R150, 41_block.md): from control they are the composite `blockWhole`, whatever
the frame and the capacity; two valid blocks in a row (R154). -/

namespace Sys2Proof

/-- The body bytes of a frame before the checksum byte (R103). -/
def Frame.staged (f : Frame) : List Byte := [f.n, f.c] ++ f.payload

theorem Frame.symbols_append (f : Frame) (rest : List Symbol) :
    f.symbols ++ rest =
      byteSymbol Config.SOH :: (f.staged.map byteSymbol ++ byteSymbol f.k :: rest) := rfl

namespace Machine

/-! ## Runs of steps -/

theorem runSteps_succ_of_step {s t : State} (h : step s = .next t) (k : Nat) :
    runSteps (k + 1) s = runSteps k t := by
  simp [runSteps, h]

theorem runSteps_one (s : State) : runSteps 1 s = step s := by
  cases h : step s <;> simp [runSteps, h]

/-- A run goes on from where its first part ends. -/
theorem runSteps_add {m : Nat} {s t : State} (h : runSteps m s = .next t) (n : Nat) :
    runSteps (m + n) s = runSteps n t := by
  induction m generalizing s with
  | zero => cases h; rw [Nat.zero_add]
  | succ m ih =>
    rw [Nat.succ_add]
    cases hs : step s with
    | next u =>
      rw [runSteps_succ_of_step hs] at h ⊢
      exact ih h
    | fault r => simp [runSteps, hs] at h
    | refused r => simp [runSteps, hs] at h

/-! ## The symbols of a block -/

theorem Active.of_atControl {s : State} (hrst : s.rst = false) (hc : s.atControl = true) : Active s :=
  have ⟨hr, hst, hi⟩ := (State.atControl_iff s).mp hc
  ⟨hrst, hr, by simp [State.seqOk, hst, hi]⟩

theorem step_soh {s : State} {xs : List Symbol} (hrst : s.rst = false) (hc : s.atControl = true)
    (hq : s.rxq = byteSymbol Config.SOH :: xs) : step s = .next s.popRx.startBlock := by
  obtain ⟨-, hst, -⟩ := (State.atControl_iff s).mp hc
  rw [step_active (Active.of_atControl hrst hc), fetch_control hst hq decodeRx_control_block]
  exact execBlock_of_atControl (s := s.popRx) hc

/-- One body byte before the last: its symbol is gone, it is staged, and the offset moves on. -/
def State.takeByte (b : Byte) (s : State) : State := (s.popRx.stageByte b).nextOffset

/-- Body bytes before the last, in order. -/
def State.takeBytes : List Byte → State → State
  | [], s => s
  | b :: bs, s => State.takeBytes bs (s.takeByte b)

theorem step_takeByte {s : State} {b : Byte} {xs : List Symbol} (hrst : s.rst = false) (hb : s.inBody = true)
    (h8 : s.idx ≠ 8) (hq : s.rxq = byteSymbol b :: xs) : step s = .next (s.takeByte b) :=
  (step_bodybyte hrst hb hq).trans (execBodybyte_of_ne_eight (s := s.popRx) b hb h8)

theorem State.takeByte_inBody {s : State} (b : Byte) (hb : s.inBody = true) (h8 : s.idx ≠ 8) :
    (s.takeByte b).inBody = true := by
  obtain ⟨hr, -, h1, hle⟩ := (State.inBody_iff s).mp hb
  obtain ⟨hlo, hhi⟩ := nextOffset_inRange h1 (show s.idx ≤ 7 by bv_omega)
  exact (State.inBody_iff _).mpr
    ⟨by simp [State.takeByte, hr], rfl, by simpa [State.takeByte] using hlo, by simpa [State.takeByte] using hhi⟩

/-- As many body bytes as stand before offset 8 are taken in as many steps. -/
theorem runSteps_takeBytes {bs : List Byte} {s : State} {rest : List Symbol} (hrst : s.rst = false)
    (hb : s.inBody = true) (hlen : s.idx.toNat + bs.length ≤ 8) (hq : s.rxq = bs.map byteSymbol ++ rest) :
    runSteps bs.length s = .next (s.takeBytes bs) := by
  induction bs generalizing s with
  | nil => rfl
  | cons b bs ih =>
    rw [List.length_cons] at hlen ⊢
    have h8 : s.idx ≠ 8 := fun h => by simp [h] at hlen
    have hnext : (s.takeByte b).idx.toNat = s.idx.toNat + 1 := by
      simp [State.takeByte]
      omega
    rw [runSteps_succ_of_step (step_takeByte hrst hb h8 hq)]
    exact ih (by simp [State.takeByte, hrst]) (State.takeByte_inBody b hb h8) (by omega)
      (by simp [State.takeByte, hq])

/-- The state before the checksum byte of a frame, by taking the start marker and the seven body bytes one by one
(R140 to R143, R150). -/
theorem State.takeBytes_staged {s : State} {f : Frame} {rest : List Symbol} (hq : s.rxq = f.symbols ++ rest) :
    s.popRx.startBlock.takeBytes f.staged = ((s.stageFrame f).consume 8).goto .readingBlockBody 8 := by
  simp [hq, Frame.symbols, Frame.body, Frame.staged, Frame.payload, State.takeBytes, State.takeByte,
    State.stageByte, fieldAt, State.popRx, State.goto, State.setSeq, State.setCmp, State.setSum, State.setPay,
    PayRegs.set, State.stageFrame, State.consume, payloadSum]

/-- The first eight steps over a frame. -/
theorem runSteps_eight {s : State} {f : Frame} {rest : List Symbol} (hrst : s.rst = false)
    (hc : s.atControl = true) (hq : s.rxq = f.symbols ++ rest) :
    runSteps 8 s = .next (((s.stageFrame f).consume 8).goto .readingBlockBody 8) := by
  obtain ⟨hr, -, -⟩ := (State.atControl_iff s).mp hc
  have hbody : s.popRx.startBlock.inBody = true := by simp [State.inBody_iff, hr]
  have htail : s.popRx.startBlock.rxq = f.staged.map byteSymbol ++ byteSymbol f.k :: rest := by
    simp [hq, Frame.symbols_append]
  rw [runSteps_succ_of_step (step_soh hrst hc (hq.trans (f.symbols_append rest))), ← State.takeBytes_staged hq]
  exact runSteps_takeBytes (s := s.popRx.startBlock) hrst hbody (bs := f.staged) (Nat.le_refl 8) htail

/-- At the checksum byte the verdict on the staged frame is the composite (R150, R144). -/
theorem verdict_staged (f : Frame) (s : State) :
    verdict f.k (((s.stageFrame f).consume Config.blockLen).goto .readingBlockBody 8) = blockWhole f s := rfl

/-- Nine steps over a frame are the composite (R150). -/
theorem runSteps_nine_eq_blockWhole {s : State} {f : Frame} {rest : List Symbol} (hrst : s.rst = false)
    (hc : s.atControl = true) (hq : s.rxq = f.symbols ++ rest) : runSteps 9 s = blockWhole f s := by
  obtain ⟨hr, -, -⟩ := (State.atControl_iff s).mp hc
  generalize hu : ((s.stageFrame f).consume 8).goto .readingBlockBody 8 = u
  have hrun : runSteps 8 s = .next u := hu ▸ runSteps_eight hrst hc hq
  have hbody : u.inBody = true := by simp [← hu, State.inBody_iff, hr]
  have hlast : u.rxq = byteSymbol f.k :: rest := by
    simp [← hu, hq, Frame.symbols_append, Frame.staged, Frame.payload]
  have hpop : u.popRx = ((s.stageFrame f).consume Config.blockLen).goto .readingBlockBody 8 := by
    simp [← hu, State.popRx, State.consume, State.goto, List.tail_drop, Nat.add_assoc]
  calc runSteps 9 s = step u := (runSteps_add hrun 1).trans (runSteps_one u)
    _ = execBodybyte f.k u.popRx := step_bodybyte (by simp [← hu, hrst]) hbody hlast
    _ = verdict f.k u.popRx := execBodybyte_last f.k hbody (by simp [← hu])
    _ = blockWhole f s := by rw [hpop, verdict_staged]

/-! ## Valid blocks -/

/-- The whole effect of a valid block on an unbounded Message (R148, R150). -/
theorem blockWhole_of_valid {f : Frame} {s : State} (hv : frameValid f = true) (hcap : s.msgCap = none) :
    blockWhole f s =
      .next (((((s.stageFrame f).consume Config.blockLen).goto .awaitingControl 0).msgAppend
        (stripPadding f.payload)).txWrite Config.ACK) := by
  obtain ⟨hc, hs⟩ : frameComplementOk f = true ∧ frameSumOk f = true := by simpa [frameValid] using hv
  simp [blockWhole, hc, hs, State.fits_iff, hcap]

/-- A valid block in front of the queue is appended and acknowledged in nine steps, and the framer is at control with
the rest of the queue, as it was with the block. -/
theorem runSteps_validBlock {s : State} {f : Frame} {rest : List Symbol} (hv : frameValid f = true)
    (hrst : s.rst = false) (hc : s.atControl = true) (hcap : s.msgCap = none) (hq : s.rxq = f.symbols ++ rest) :
    ∃ t, runSteps 9 s = .next t ∧ t.rst = false ∧ t.atControl = true ∧ t.msgCap = none ∧ t.rxq = rest ∧
      t.tx = s.tx ++ [Config.ACK] ∧ t.msg.bytes = s.msg.bytes ++ stripPadding f.payload := by
  obtain ⟨hr, -, -⟩ := (State.atControl_iff s).mp hc
  refine ⟨_, (runSteps_nine_eq_blockWhole hrst hc hq).trans (blockWhole_of_valid hv hcap), hrst, ?_, hcap, ?_,
    rfl, ?_⟩
  · simp [State.atControl_iff, hr]
  · simp [hq, Frame.symbols, Frame.body]
  · simp

/-- Settles O58: a valid block leaves the framer as a next valid block needs it. -/
theorem validBlocksAppendedInArrivalOrder : Obligations.ValidBlocksAppendedInArrivalOrder := by
  intro f g rest s hf hg hrst hr hst hi hcap hq
  have hc : s.atControl = true := (State.atControl_iff s).mpr ⟨hr, hst, hi⟩
  obtain ⟨u, hu, hurst, huc, hucap, huq, hutx, humsg⟩ := runSteps_validBlock hf hrst hc hcap hq
  obtain ⟨t, ht, -, -, -, htq, httx, htmsg⟩ := runSteps_validBlock hg hurst huc hucap huq
  exact ⟨t, (runSteps_add hu 9).trans ht, by simp [httx, hutx], htq, by rw [htmsg, humsg]⟩

end Machine

end Sys2Proof
end

section
/-! SUPPORT. NOISE (R180, 42_noise.md): every byte but SOH and EOT is decoded to a NOISE row at control, and its step is
the consumption of the symbol. -/

namespace Sys2Proof

theorem byteSymbol_injective : Function.Injective byteSymbol :=
  Function.LeftInverse.injective byteSymbol_data

/-- The classes of R107 are told apart by the byte alone. -/
theorem decodeRx_control_noiseByte {b : Byte} (h1 : b ≠ 0x01) (h4 : b ≠ 0x04) :
    ∃ i, decodeRx .control (byteSymbol b) = .ok i ∧ i.noiseByte = some b := by
  have hsoh : byteSymbol b ≠ 0x001 := fun h => h1 (byteSymbol_injective h)
  have heot : byteSymbol b ≠ 0x004 := fun h => h4 (byteSymbol_injective h)
  simpa using decodeRx_control_noise (byteSymbol b) (byteSymbol_err b) heot hsoh

namespace Machine

theorem exec_noise_of_atControl {i : Instr} {b : Byte} {s : State} (hn : i.noiseByte = some b)
    (hc : s.atControl = true) : exec i s = .next s := by
  rw [exec_of_noiseByte hn, discardByte_of_atControl hc]

/-- The step that consumes a noise byte is the read of its symbol and nothing else (R180). -/
theorem step_noise {s : State} {b : Byte} {xs : List Symbol} (hrst : s.rst = false) (hc : s.atControl = true)
    (h1 : b ≠ 0x01) (h4 : b ≠ 0x04) (hq : s.rxq = byteSymbol b :: xs) : step s = .next s.popRx := by
  obtain ⟨-, hst, -⟩ := (State.atControl_iff s).mp hc
  obtain ⟨i, hd, hn⟩ := decodeRx_control_noiseByte h1 h4
  rw [step_active (Active.of_atControl hrst hc), fetch_control hst hq hd]
  exact exec_noise_of_atControl (s := s.popRx) hn hc

/-- Settles O16: a NOISE row has one meaning and one label, and `popRx` is the whole effect of its step. -/
theorem noiseChangesNothing : Obligations.NoiseChangesNothing := by
  refine ⟨fun b => decodeRx_control_noiseByte, fun i b s hn hr hst hi => ?_,
    fun b s xs h1 h4 hrst hr hst hi hq => ?_⟩
  · exact ⟨exec_noise_of_atControl hn ((State.atControl_iff s).mpr ⟨hr, hst, hi⟩), instrLabel_of_noiseByte hn s⟩
  · rw [step_noise hrst ((State.atControl_iff s).mpr ⟨hr, hst, hi⟩) h1 h4 hq, State.popRx, hq, List.tail_cons]

end Machine

end Sys2Proof
end

section
/-! SUPPORT. The ACK/NAK generator (R190 to R198, 43_response.md): the readiness NAK, the emissions of a step, and the
counting law, from what the labels of a session tell of its state. -/

namespace Sys2Proof.Machine

/-! ## The readiness NAK -/

theorem verdictLabel_ne_ready (k : Byte) (s : State) : verdictLabel k s ≠ .ready := by
  unfold verdictLabel
  split_ifs <;> simp

/-- No instruction executes as `Ready`, which reads no symbol (R196). -/
theorem instrLabel_ne_ready (s : State) (i : Instr) : instrLabel s i ≠ some .ready := by
  cases i with
  | bodybyte k =>
    rw [instrLabel]
    split <;> simp [verdictLabel_ne_ready]
  | _ => simp [instrLabel]

theorem stepLabel_ready_iff {s : State} (hrst : s.rst = false) (hok : s.seqOk = true) :
    stepLabel s = some .ready ↔ s.rdy = true := by
  cases hr : s.rdy with
  | true => simp [stepLabel, hrst, hok, hr]
  | false =>
    rw [stepLabel_active ⟨hrst, hr, hok⟩]
    cases hf : s.fetch <;> simp [instrLabel_ne_ready]

/-- Settles O8: the label by `stepLabel_ready_iff`, the effect is `ready`, and `step_rdy` says it is not owed again. -/
theorem readyStepEmitsNakOnce : Obligations.ReadyStepEmitsNakOnce := by
  refine ⟨fun s => stepLabel_ready_iff, fun s hrst hok hr => ⟨?_, ?_⟩, fun s t => step_rdy⟩
  · obtain ⟨-, -, hst⟩ := (State.seqOk_iff s).mp hok
    exact hst hr
  · simp [step, hrst, hok, hr, State.txWrite, State.clearRdy]

/-! ## The emissions of a step -/

/-- Settles O38: `step_tx`, with the response of each label written out. -/
theorem emissionsInFourSituationsOnly : Obligations.EmissionsInFourSituationsOnly := by
  intro s t hrst h
  rw [step_tx hrst h]
  cases stepLabel s with
  | none => rfl
  | some l => cases l <;> rfl

/-! ## The bytes of a sequence of labels -/

theorem count_toList (o : Option Label) (l : Label) : o.toList.count l = if o = some l then 1 else 0 := by
  cases o <;> simp [List.count_singleton]

/-- An ACK is the response to `Accept` and to `Eot` only. -/
theorem count_ack_responses (ls : List Label) :
    (ls.flatMap Label.response).count Config.ACK = ls.count .accept + ls.count .eot := by
  induction ls with
  | nil => rfl
  | cons l ls ih =>
    rw [List.flatMap_cons, List.count_append, ih]
    cases l <;> simp [Label.response] <;> omega

/-- A NAK is the response to `Ready` and to the two recoverable errors only. -/
theorem count_nak_responses (ls : List Label) :
    (ls.flatMap Label.response).count Config.NAK =
      ls.count .ready + ls.count .framingError + ls.count .checksumError := by
  induction ls with
  | nil => rfl
  | cons l ls ih =>
    rw [List.flatMap_cons, List.count_append, ih]
    cases l <;> simp [Label.response] <;> omega

/-- Every response is ACK or NAK (R191). -/
theorem length_responses (ls : List Label) :
    (ls.flatMap Label.response).length =
      (ls.flatMap Label.response).count Config.ACK + (ls.flatMap Label.response).count Config.NAK := by
  induction ls with
  | nil => rfl
  | cons l ls ih =>
    rw [List.flatMap_cons, List.length_append, List.count_append, List.count_append, ih]
    cases l <;> simp [Label.response] <;> omega

/-! ## What the labels of a session tell -/

theorem seqOk_of_step {s t : State} (hrst : s.rst = false) (h : step s = .next t) : s.seqOk = true := by
  by_contra hok
  simp [step, hrst, Bool.eq_false_iff.mpr hok] at h

/-- The framer is in `Done` after a step exactly if it was, or the step is `Eot` (R130, R132). -/
theorem step_done_iff {s t : State} (hrst : s.rst = false) (h : step s = .next t) :
    t.st = .done ↔ s.st = .done ∨ stepLabel s = some .eot := by
  refine ⟨fun hd => (step_done h hd).elim .inr fun heq => .inl (heq ▸ hd), ?_⟩
  rintro (hd | hl)
  · obtain ⟨-, hhold⟩ := step_terminal hrst (seqOk_of_step hrst h) (.inl hd)
    obtain rfl : s = t := by simpa [hhold] using h
    exact hd
  · cases step_cases h with
    | reject _ _ _ _ _ _ _ hv hl' =>
      rcases verdictLabel_of_fail hv with hlabel | hlabel <;> simp [hl', hlabel] at hl
    | eot _ _ _ _ _ ht => simp [ht]
    | _ => simp_all

/-- `s` is a state that a session may have reached out of reset by steps with the labels `ls`: they account for every
byte emitted, for the readiness NAK and for `Done`. -/
structure SessionAccount (ls : List Label) (s : State) : Prop where
  rst : s.rst = false
  tx : s.tx = ls.flatMap Label.response
  ready : ls.count .ready = if s.rdy then 0 else 1
  eot : ls.count .eot = if s.st = .done then 1 else 0

namespace SessionAccount

variable {ls : List Label} {s t : State}

theorem start (hrst : s.rst = false) (hok : s.seqOk = true) (hr : s.rdy = true) (htx : s.tx = []) :
    SessionAccount [] s := by
  obtain ⟨-, -, hst⟩ := (State.seqOk_iff s).mp hok
  exact ⟨hrst, htx, by simp [hr], by simp [hst hr]⟩

/-- `Ready` is counted in the step that clears `rdy`, and in no other (R196). -/
theorem ready_step (ha : SessionAccount ls s) (h : step s = .next t) :
    (ls ++ (stepLabel s).toList).count .ready = if t.rdy then 0 else 1 := by
  have hlabel := stepLabel_ready_iff ha.rst (seqOk_of_step ha.rst h)
  rw [List.count_append, ha.ready, count_toList, step_rdy ha.rst h]
  cases hr : s.rdy <;> simp [hlabel, hr]

/-- `Eot` is counted in the step that enters `Done`, and in no other (R130, R132). -/
theorem eot_step (ha : SessionAccount ls s) (h : step s = .next t) :
    (ls ++ (stepLabel s).toList).count .eot = if t.st = .done then 1 else 0 := by
  rw [List.count_append, ha.eot, count_toList]
  by_cases hd : s.st = .done
  · obtain ⟨hl, -⟩ := step_terminal ha.rst (seqOk_of_step ha.rst h) (.inl hd)
    simp [step_done_iff ha.rst h, hd, hl]
  · simp [step_done_iff ha.rst h, hd]

theorem tx_step (ha : SessionAccount ls s) (h : step s = .next t) :
    t.tx = (ls ++ (stepLabel s).toList).flatMap Label.response := by
  rw [step_tx ha.rst h, ha.tx, List.flatMap_append]
  cases stepLabel s <;> simp

theorem after_event {e : Event} (ha : SessionAccount ls s) (he : e.notReset = true)
    (h : applyEvent e s = .next t) : SessionAccount (ls ++ (eventLabel s e).toList) t := by
  cases e with
  | tick => exact ⟨(step_rst h).trans ha.rst, ha.tx_step h, ha.ready_step h, ha.eot_step h⟩
  | arrive x =>
    cases h
    simpa [eventLabel] using (⟨ha.rst, ha.tx, ha.ready, ha.eot⟩ : SessionAccount ls (s.arrive x))
  | setRst l => cases he

theorem after_events {es : List Event} (ha : SessionAccount ls s) (hes : ∀ e ∈ es, e.notReset = true)
    (h : runEvents es s = .next t) : SessionAccount (ls ++ labelTrace es s) t := by
  induction es generalizing ls s with
  | nil => cases h; simpa [labelTrace] using ha
  | cons e es ih =>
    obtain ⟨u, he, hu⟩ := runEvents_cons_next.mp h
    obtain ⟨hfirst, hrest⟩ := List.forall_mem_cons.mp hes
    simpa [labelTrace, he] using ih (ha.after_event hfirst he) hrest hu

end SessionAccount

/-- Settles O46: a session's labels account for its state, and the bytes are counted over the labels. -/
theorem countingLaw : Obligations.CountingLaw := by
  intro es s t hrst hok hr htx hes h
  have ha := (SessionAccount.start hrst hok hr htx).after_events hes h
  rw [List.nil_append] at ha
  have hack : t.tx.count 0x06 = _ := ha.tx ▸ count_ack_responses (labelTrace es s)
  have hnak : t.tx.count 0x15 = _ := ha.tx ▸ count_nak_responses (labelTrace es s)
  have hlen : t.tx.length = t.tx.count 0x06 + t.tx.count 0x15 := ha.tx ▸ length_responses (labelTrace es s)
  rw [ha.eot] at hack
  rw [ha.ready] at hnak
  exact ⟨by omega, hack, hnak⟩

end Sys2Proof.Machine
end

section
/-! SUPPORT. The conditions a step can raise (R210, R220 to R222, 60_exceptions.md): the two rejecting verdicts at
offset 8, and the transport error that ends the session. -/

namespace Sys2Proof.Machine

/-! ## The rejecting verdicts -/

theorem verdictLabel_framingError {s : State} (k : Byte) (hc : s.cmpOk = false) :
    verdictLabel k s = .framingError := by
  simp [verdictLabel, hc]

theorem verdictLabel_checksumError {k : Byte} {s : State} (hc : s.cmpOk = true) (hs : s.sumOk k = false) :
    verdictLabel k s = .checksumError := by
  simp [verdictLabel, hc, hs]

/-- The complement check by the values of the registers (R144, R145). -/
theorem State.cmpOk_iff_toNat (s : State) : s.cmpOk = true ↔ s.cmp.toNat = 255 - s.seq.toNat :=
  complementOk_iff_toNat s.seq s.cmp

theorem State.inBody_of_idx_eight {s : State} (hr : s.rdy = false) (hst : s.st = .readingBlockBody)
    (hi : s.idx = 8) : s.inBody = true :=
  (State.inBody_iff s).mpr ⟨hr, hst, by simp [hi], by simp [hi]⟩

/-- Settles O18: a failed complement check is decided before the checksum is read, and the answer is `raise`. -/
theorem wrongComplementIsFramingError : Obligations.WrongComplementIsFramingError := by
  intro s k hr hst hi hcmp
  have hc : s.cmpOk = false := Bool.eq_false_iff.mpr (mt (State.cmpOk_iff_toNat s).mp hcmp)
  exact ⟨verdictLabel_framingError k hc,
    (execBodybyte_last k (State.inBody_of_idx_eight hr hst hi) hi).trans (verdict_framingError hc)⟩

/-- Settles O19: the complement check passes and the checksum decides, with the same effect as `FramingError`. -/
theorem wrongChecksumIsChecksumError : Obligations.WrongChecksumIsChecksumError := by
  intro s k hr hst hi hcmp hk
  have hc : s.cmpOk = true := (State.cmpOk_iff_toNat s).mpr hcmp
  have hs : s.sumOk k = false := Bool.eq_false_iff.mpr (mt (State.sumOk_iff k s).mp hk)
  exact ⟨verdictLabel_checksumError hc hs,
    (execBodybyte_last k (State.inBody_of_idx_eight hr hst hi) hi).trans (verdict_checksumError hc hs)⟩

/-! ## The transport error -/

theorem decodeRx_body_err {x : Symbol} (he : x.err = true) : decodeRx .body x = .ok (.rxerr x.data) := by
  simp [decodeRx_body, he]

theorem State.flags_of_failed {s : State} (hst : s.st = .failed) :
    s.failFlag = true ∧ s.doneFlag = false ∧ s.outcome = .ioFailure :=
  ⟨(State.failFlag_iff s).mpr hst, by simp [State.doneFlag, hst], (State.outcome_ioFailure_iff s).mpr hst⟩

/-- While the readiness NAK is owed the step is `Ready`, whatever waits in the queue (R196, R230 (c)). -/
theorem step_of_rdy {s : State} (hrst : s.rst = false) (hok : s.seqOk = true) (hr : s.rdy = true) :
    step s = .next (ready s) := by
  simp [step, hrst, hok, hr]

/-- Settles O22: `execRxerr` has one answer wherever RXERR is decoded, and no step out of its contexts reads the
queue. -/
theorem transportErrorEndsSession : Obligations.TransportErrorEndsSession := by
  refine ⟨fun x he => ⟨decodeRx_control_err x he, decodeRx_body_err he⟩, fun s d hr hwhere => ?ends,
    fun s t hrst hwhy h => ?notConsumed⟩
  case ends =>
    have hdec : s.atControl = true ∨ s.inBody = true :=
      hwhere.imp (fun hctl => (State.atControl_iff s).mpr ⟨hr, hctl⟩)
        (fun hbody => (State.inBody_iff s).mpr ⟨hr, hbody⟩)
    exact ⟨_, execRxerr_of_decoded d hdec, rfl, State.flags_of_failed rfl⟩
  case notConsumed =>
    have hok := seqOk_of_step hrst h
    rcases hwhy with hr | hterm
    · rw [step_of_rdy hrst hok hr] at h
      cases h
      exact ⟨rfl, rfl⟩
    · obtain ⟨-, hhold⟩ := step_terminal hrst hok hterm
      rw [hhold] at h
      cases h
      exact ⟨rfl, rfl⟩

end Sys2Proof.Machine
end

section
/-! SUPPORT. The reset edge (R260 to R262, 70_reset_and_hazards.md): what `rst = 1` answers in any state, and the
step it owes once it is released. -/

namespace Sys2Proof.Machine

/-! ## While `rst` is 1 -/

/-- The reset edge asks nothing of the state (R260). -/
theorem step_of_rst {s : State} (hrst : s.rst = true) : step s = .next s.takeReset := by
  simp [step, hrst]

theorem stepLabel_of_rst {s : State} (hrst : s.rst = true) : stepLabel s = none := by
  simp [stepLabel, hrst]

theorem State.rxReady_of_rst {s : State} (hrst : s.rst = true) : s.rxReady = false := by
  simp [State.rxReady, hrst]

/-! ## The state the edge leaves -/

theorem State.flags_of_awaitingControl {s : State} (hst : s.st = .awaitingControl) :
    s.doneFlag = false ∧ s.failFlag = false := by
  simp [State.doneFlag, State.failFlag, hst]

theorem State.takeReset_released_seqOk (s : State) : (s.takeReset.setRst false).seqOk = true := by
  simp [State.seqOk]

/-- A released reset owes the readiness NAK of a new session (R196, R261). -/
theorem stepLabel_takeReset_released (s : State) : stepLabel (s.takeReset.setRst false) = some .ready :=
  (stepLabel_ready_iff rfl s.takeReset_released_seqOk).mpr rfl

/-- Settles O11: the edge is `takeReset` from every state, which clears the flags and owes `Ready` when released. -/
theorem resetEdgeTakesResetState : Obligations.ResetEdgeTakesResetState := by
  intro s hrst
  refine ⟨step_of_rst hrst, stepLabel_of_rst hrst, State.rxReady_of_rst hrst, fun t h => ?_⟩
  rw [step_of_rst hrst] at h
  cases h
  obtain ⟨hdone, hfail⟩ := State.flags_of_awaitingControl s.takeReset_st
  exact ⟨hdone, hfail, rfl, rfl, rfl, rfl, rfl, stepLabel_takeReset_released s⟩

end Sys2Proof.Machine
end


section
/-! SUPPORT. The decoder and the encoder are inverse (R105, R107, R108, 30_encoding.md): a row that takes a symbol is the
one the decoder finds, and a symbol a row takes is the word of the instruction the row reads. -/

namespace Sys2Proof

/-! ## The rows of both contexts -/

/-- The rows differ in the value of a bit both examine. -/
def Row.Disagree (r q : Row) : Prop := r.value &&& q.mask ≠ q.value &&& r.mask

theorem Row.disagree_symm : Std.Symm Row.Disagree := ⟨fun _ _ => Ne.symm⟩

theorem rowsOf_pairwise_disagree (ctx : DecodeContext) : (rowsOf ctx).Pairwise Row.Disagree := by
  cases ctx with
  | control => exact controlRows_pairwise_disagree
  | body => simp [rowsOf, bodyRows, Row.Disagree]

/-- The rows of a context are disjoint, so the row that takes a symbol is the one whose instruction is read. -/
theorem decodeRx_of_takes {ctx : DecodeContext} {r : Row} {x : Symbol} (hr : r ∈ rowsOf ctx)
    (hx : r.takes x = true) : decodeRx ctx x = .ok (r.read x.data) := by
  cases hf : (rowsOf ctx).find? (fun r => r.takes x) with
  | none => exact absurd hx (by simpa using List.find?_eq_none.mp hf r hr)
  | some q =>
    have hq : q.takes x = true := List.find?_some (p := fun r : Row => r.takes x) hf
    have heq : r = q := by
      by_contra hne
      have := Row.disagree_symm
      exact Row.not_takes_both
        ((rowsOf_pairwise_disagree ctx).forall hr (List.mem_of_find?_eq_some hf) hne) hx hq
    simp [decodeRx, hf, heq]

/-! ## Decoding what was encoded -/

theorem rowPattern (i : Instr) : Laws.RowPattern.Statement i := by
  cases i with
  | eot => exact Laws.RowPattern.eot
  | block => exact Laws.RowPattern.block
  | noise80 b => exact Laws.RowPattern.noise80 b
  | noise40 b => exact Laws.RowPattern.noise40 b
  | noise20 b => exact Laws.RowPattern.noise20 b
  | noise10 b => exact Laws.RowPattern.noise10 b
  | noise08 b => exact Laws.RowPattern.noise08 b
  | noise06 b => exact Laws.RowPattern.noise06 b
  | noise05 => exact Laws.RowPattern.noise05
  | noise02 b => exact Laws.RowPattern.noise02 b
  | noise00 => exact Laws.RowPattern.noise00
  | rxerr d => exact Laws.RowPattern.rxerr d
  | bodybyte b => exact Laws.RowPattern.bodybyte b
  | ack => exact Laws.RowPattern.ack
  | nak => exact Laws.RowPattern.nak

theorem decode_encode {i : Instr} (hi : i.wf = true) : decode i.context (encode i) = .ok i := by
  have hrow := rowPattern i hi
  cases he : encode i with
  | rx x =>
    rw [he] at hrow
    obtain ⟨r, hr, hx, hread⟩ := hrow
    exact (decodeRx_of_takes hr hx).trans (congrArg Except.ok hread)
  | tx b =>
    rw [he] at hrow
    exact hrow

/-- Settles O3: the row pattern of each instruction with the disjointness of the rows, and RXERR in a body. -/
theorem decodeOfEncodeIsIdentity : Obligations.DecodeOfEncodeIsIdentity :=
  ⟨fun _ => decode_encode, fun d => by simp [decode, encode, decodeRx_body]⟩

/-! ## Encoding what was decoded -/

/-- An `Err` symbol is determined by its data bits (R61). -/
theorem eq_errSymbol_of_err (x : Symbol) (h : x.err = true) : x = errSymbol x.data := by
  have htag : (0x100 : Symbol) = BitVec.twoPow 9 8 := rfl
  refine BitVec.eq_of_getLsbD_eq fun i hi => ?_
  rw [errSymbol, htag, BitVec.getLsbD_or, BitVec.getLsbD_twoPow]
  by_cases h8 : i = 8
  · subst h8
    simpa [Symbol.err] using h
  · have hlow : i < 8 := by omega
    simp [Symbol.data, hi, hlow, Ne.symm h8]

/-- Whatever the row takes is the word of the instruction it reads, and that instruction is well formed. -/
def Row.Sound (r : Row) : Prop :=
  ∀ x : Symbol, r.takes x = true → (r.read x.data).wf = true ∧ encode (r.read x.data) = .rx x

/-- A row that examines every bit takes the one symbol it gives. -/
theorem Row.sound_of_fixed {i : Instr} {v : Symbol} (hw : i.wf = true) (he : encode i = .rx v) :
    (Row.mk 0x1FF v fun _ => i).Sound := by
  intro x hx
  have hv : x = v := by
    have hand : x &&& BitVec.allOnes 9 = v := by simpa [Row.takes] using hx
    rwa [BitVec.and_allOnes] at hand
  exact ⟨hw, hv ▸ he⟩

/-- A row whose mask holds the error tag, with the tag 0, takes the byte symbols in its pattern of data bits. -/
theorem Row.sound_of_bytes {mask value : Byte} {read : Byte → Instr}
    (hw : ∀ b, inPattern mask value b = true → (read b).wf = true)
    (he : ∀ b, encode (read b) = .rx (byteSymbol b)) :
    (Row.mk (errSymbol mask) (byteSymbol value) read).Sound := by
  intro x hx
  have hand : x &&& errSymbol mask = byteSymbol value := by simpa [Row.takes] using hx
  have hdata : x.data &&& mask = value := by
    rw [← errSymbol_data mask, Symbol.data, Symbol.data, ← BitVec.setWidth_and, hand]
    exact byteSymbol_data value
  have herr : x.err = false := by
    simpa [Symbol.err, errSymbol, byteSymbol] using congrArg Symbol.err hand
  exact ⟨hw _ (by simp [inPattern, hdata]), by rw [he, ← eq_byteSymbol_of_err x herr]⟩

theorem Row.sound_rxerr : (Row.mk 0x100 0x100 Instr.rxerr).Sound := by
  intro x hx
  have hand : x &&& 0x100 = 0x100 := by simpa [Row.takes] using hx
  have herr : x.err = true := by simpa [Symbol.err] using congrArg Symbol.err hand
  exact ⟨rfl, congrArg Encoded.rx (eq_errSymbol_of_err x herr).symm⟩

theorem controlRows_sound : ∀ r ∈ controlRows, r.Sound := by
  simp only [controlRows, List.forall_mem_cons]
  refine ⟨Row.sound_of_fixed rfl rfl, Row.sound_of_fixed rfl rfl, ?_, ?_, ?_, ?_, ?_, ?_, Row.sound_of_fixed rfl rfl,
    ?_, Row.sound_of_fixed rfl rfl, Row.sound_rxerr, by simp⟩
  · exact Row.sound_of_bytes (mask := 0x80) (value := 0x80) (fun _ => id) fun _ => rfl
  · exact Row.sound_of_bytes (mask := 0xC0) (value := 0x40) (fun _ => id) fun _ => rfl
  · exact Row.sound_of_bytes (mask := 0xE0) (value := 0x20) (fun _ => id) fun _ => rfl
  · exact Row.sound_of_bytes (mask := 0xF0) (value := 0x10) (fun _ => id) fun _ => rfl
  · exact Row.sound_of_bytes (mask := 0xF8) (value := 0x08) (fun _ => id) fun _ => rfl
  · exact Row.sound_of_bytes (mask := 0xFE) (value := 0x06) (fun _ => id) fun _ => rfl
  · exact Row.sound_of_bytes (mask := 0xFE) (value := 0x02) (fun _ => id) fun _ => rfl

theorem bodyRows_sound : ∀ r ∈ bodyRows, r.Sound := by
  simp only [bodyRows, List.forall_mem_cons]
  exact ⟨Row.sound_of_bytes (mask := 0) (value := 0) (fun _ _ => rfl) fun _ => rfl, Row.sound_rxerr, by simp⟩

theorem rowsOf_sound {ctx : DecodeContext} {r : Row} (hr : r ∈ rowsOf ctx) : r.Sound := by
  cases ctx with
  | control => exact controlRows_sound r hr
  | body => exact bodyRows_sound r hr

theorem encode_of_decodeRx {ctx : DecodeContext} {x : Symbol} {i : Instr} (h : decodeRx ctx x = .ok i) :
    i.wf = true ∧ encode i = .rx x := by
  obtain ⟨r, hr, hx⟩ := exists_takes_of_decodeRx h
  obtain rfl : r.read x.data = i := by simpa [decodeRx_of_takes hr hx] using h
  exact rowsOf_sound hr x hx

/-- A TX byte that is read is ACK or NAK (R104). -/
theorem encode_of_decodeTx {b : Byte} {i : Instr} (h : decodeTx b = .ok i) : i.wf = true ∧ encode i = .tx b := by
  unfold decodeTx at h
  split at h
  · cases h; subst b; exact ⟨rfl, rfl⟩
  split at h
  · cases h; subst b; exact ⟨rfl, rfl⟩
  · cases h

/-- Settles O4: in the RX direction every row is sound, in the TX direction there are two bytes. -/
theorem encodeOfDecodeIsIdentity : Obligations.EncodeOfDecodeIsIdentity := by
  intro ctx w i h
  cases w with
  | rx x => exact encode_of_decodeRx h
  | tx b => exact encode_of_decodeTx h

end Sys2Proof
end

section
/-! SUPPORT. The two encodings of a block (R103, 30_encoding.md): its nine symbols and its 72-bit string. -/

namespace Sys2Proof

/-! ## Nine symbols -/

theorem cutUnit_symbols (f : Frame) (rest : List Symbol) : cutUnit (f.symbols ++ rest) = some (.block f, rest) :=
  cutUnit_block f rest

/-- A block is cut from its nine symbols only. -/
theorem eq_symbols_of_cutUnit {xs rest : List Symbol} {f : Frame} (h : cutUnit xs = some (.block f, rest)) :
    xs = f.symbols ++ rest := by
  cases xs with
  | nil => cases h
  | cons x xs =>
    by_cases hx : x = 0x001
    · subst hx
      obtain ⟨g, hg, rfl⟩ | ⟨bs, e, hu, -⟩ := cutUnit_soh_cases h
      · cases hg
        rfl
      · cases hu
    · obtain ⟨i, hi⟩ := cutUnit_single xs hx
      cases hi.symm.trans h

/-! ## The 72-bit string -/

theorem toNat_append_byte {n : Nat} (hi : BitVec n) (b : Byte) : (hi ++ b).toNat = hi.toNat * 256 + b.toNat := by
  rw [BitVec.toNat_append, ← Nat.shiftLeft_add_eq_or_of_lt b.isLt, Nat.shiftLeft_eq]

/-- The string read as a number: its bytes are the digits, SOH first. -/
theorem Frame.toNat_bits (f : Frame) :
    f.bits.toNat =
      (((((((1 * 256 + f.n.toNat) * 256 + f.c.toNat) * 256 + f.p0.toNat) * 256 + f.p1.toNat) * 256 +
        f.p2.toNat) * 256 + f.p3.toNat) * 256 + f.p4.toNat) * 256 + f.k.toNat := by
  simp only [Frame.bits, toNat_append_byte]
  rfl

theorem toNat_extract_byte (w : BitVec 72) (i : Nat) : (w.extractLsb' i 8).toNat = w.toNat / 2 ^ i % 256 := by
  rw [BitVec.extractLsb'_toNat, Nat.shiftRight_eq_div_pow]

theorem extract_byte_eq {w : BitVec 72} {i : Nat} {b : Byte} (h : w.toNat / 2 ^ i % 256 = b.toNat) :
    w.extractLsb' i 8 = b :=
  BitVec.eq_of_toNat_eq ((toNat_extract_byte w i).trans h)

theorem Frame.ofBits_bits (f : Frame) : Frame.ofBits f.bits = some f := by
  have hbits := f.toNat_bits
  have hsoh : f.bits.extractLsb' 64 8 = Config.SOH := extract_byte_eq (by simp; omega)
  have hn : f.bits.extractLsb' 56 8 = f.n := extract_byte_eq (by omega)
  have hc : f.bits.extractLsb' 48 8 = f.c := extract_byte_eq (by omega)
  have hp0 : f.bits.extractLsb' 40 8 = f.p0 := extract_byte_eq (by omega)
  have hp1 : f.bits.extractLsb' 32 8 = f.p1 := extract_byte_eq (by omega)
  have hp2 : f.bits.extractLsb' 24 8 = f.p2 := extract_byte_eq (by omega)
  have hp3 : f.bits.extractLsb' 16 8 = f.p3 := extract_byte_eq (by omega)
  have hp4 : f.bits.extractLsb' 8 8 = f.p4 := extract_byte_eq (by omega)
  have hk : f.bits.extractLsb' 0 8 = f.k := extract_byte_eq (by omega)
  rw [Frame.ofBits, if_pos hsoh, hn, hc, hp0, hp1, hp2, hp3, hp4, hk]

/-- A string is determined by its nine bytes. -/
theorem Frame.bits_of_ofBits {w : BitVec 72} {f : Frame} (h : Frame.ofBits w = some f) : f.bits = w := by
  unfold Frame.ofBits at h
  split at h
  case isFalse => cases h
  case isTrue hsoh =>
    cases h
    have hsohNat : w.toNat / 2 ^ 64 % 256 = 1 := (toNat_extract_byte w 64).symm.trans (congrArg BitVec.toNat hsoh)
    apply BitVec.eq_of_toNat_eq
    simp only [Frame.toNat_bits, toNat_extract_byte]
    omega

/-- Settles O5, one lemma for each direction of each encoding. -/
theorem frameEncodingsRoundTrip : Obligations.FrameEncodingsRoundTrip :=
  ⟨cutUnit_symbols, fun _ _ _ => eq_symbols_of_cutUnit, Frame.ofBits_bits, fun _ _ => Frame.bits_of_ofBits⟩

end Sys2Proof
end

section
/-! SUPPORT. What a step reads from the queue and what it writes outside the registers (R62, R72, R80, 20_memory.md), and
that a reachable encoding always has an answer (R62, R64). -/

namespace Sys2Proof.Machine

/-! ## The handshake -/

/-- `rx_ready` is 1 exactly out of reset, past the readiness NAK, in a running session (R80). -/
theorem State.rxReady_iff (s : State) :
    s.rxReady = true ↔ s.rst = false ∧ s.rdy = false ∧ (s.st = .awaitingControl ∨ s.st = .readingBlockBody) := by
  simp [State.rxReady, and_assoc]

theorem State.rxValid_iff (s : State) : s.rxValid = true ↔ s.rxq ≠ [] := by
  simp [State.rxValid]

theorem State.rxReady_of_atControl {s : State} (hrst : s.rst = false) (hc : s.atControl = true) :
    s.rxReady = true := by
  obtain ⟨hr, hst, -⟩ := (State.atControl_iff s).mp hc
  exact (State.rxReady_iff s).mpr ⟨hrst, hr, .inl hst⟩

theorem State.rxReady_of_inBody {s : State} (hrst : s.rst = false) (hb : s.inBody = true) : s.rxReady = true := by
  obtain ⟨hr, hst, -⟩ := (State.inBody_iff s).mp hb
  exact (State.rxReady_iff s).mpr ⟨hrst, hr, .inr hst⟩

theorem State.rxReady_of_terminal {s : State} (ht : s.st = .done ∨ s.st = .failed) : s.rxReady = false := by
  rcases ht with h | h <;> simp [State.rxReady, h]

theorem State.rxReady_of_rdy {s : State} (hr : s.rdy = true) : s.rxReady = false := by
  simp [State.rxReady, hr]

/-- The two ways a step treats the queue: no handshake and nothing read, or a handshake and one symbol read (R62). -/
theorem step_handshake {s t : State} (hrst : s.rst = false) (h : step s = .next t) :
    (¬ (s.rxReady = true ∧ s.rxValid = true) ∧ t.rxq = s.rxq ∧ t.rxn = s.rxn) ∨
    ((s.rxReady = true ∧ s.rxValid = true) ∧ t.rxq = s.rxq.tail ∧ t.rxn = s.rxn + 1) := by
  have hshake : s.atControl = true ∨ s.inBody = true → ∀ {x xs}, s.rxq = x :: xs →
      s.rxReady = true ∧ s.rxValid = true := fun hwhere _ _ hq =>
    ⟨hwhere.elim (State.rxReady_of_atControl hrst) (State.rxReady_of_inBody hrst),
      (State.rxValid_iff s).mpr (by simp [hq])⟩
  cases step_cases h with
  | reset hr => simp [hrst] at hr
  | ready _ _ hr _ ht => exact .inl ⟨by simp [State.rxReady_of_rdy hr], by simp [ht], by simp [ht]⟩
  | hold _ hwhy _ ht =>
    refine .inl ⟨?_, by rw [ht], by rw [ht]⟩
    rcases hwhy with hq | hterm
    · simp [State.rxValid, hq]
    · simp [State.rxReady_of_terminal hterm]
  | eot _ hc _ hq _ ht => exact .inr ⟨hshake (.inl hc) hq, by simp [ht], by simp [ht]⟩
  | blockStart _ hc _ hq _ ht => exact .inr ⟨hshake (.inl hc) hq, by simp [ht], by simp [ht]⟩
  | discard _ hc _ _ hq _ _ _ _ ht => exact .inr ⟨hshake (.inl hc) hq, by simp [ht], by simp [ht]⟩
  | ioFailure _ hc _ _ hq _ _ ht => exact .inr ⟨hshake hc hq, by simp [ht], by simp [ht]⟩
  | sequence _ hb _ _ _ hq _ _ ht => exact .inr ⟨hshake (.inr hb) hq, by simp [ht], by simp [ht]⟩
  | complement _ hb _ _ _ hq _ _ ht => exact .inr ⟨hshake (.inr hb) hq, by simp [ht], by simp [ht]⟩
  | payload _ hb _ _ _ _ hq _ _ ht => exact .inr ⟨hshake (.inr hb) hq, by simp [ht], by simp [ht]⟩
  | reject _ hb _ _ _ hq _ _ _ ht => exact .inr ⟨hshake (.inr hb) hq, by simp [ht], by simp [ht]⟩
  | accept _ hb _ _ _ hq _ _ _ _ _ ht => exact .inr ⟨hshake (.inr hb) hq, by simp [ht], by simp [ht]⟩

/-- No step writes the capacity (R72). -/
theorem step_msgCap {s t : State} (h : step s = .next t) : t.msgCap = s.msgCap := by
  cases step_cases h <;> simp [*]

/-- Settles O42: the two cases of `step_handshake`, and the inputs no step writes. -/
theorem symbolConsumedOnHandshake : Obligations.SymbolConsumedOnHandshake := by
  intro s t hrst h
  obtain ⟨hno, hread⟩ | ⟨hyes, hread⟩ := step_handshake hrst h
  · exact ⟨fun hyes => absurd hyes hno, fun _ => hread, step_rst h, step_msgCap h⟩
  · exact ⟨fun _ => hread, fun hno => absurd hyes hno, step_rst h, step_msgCap h⟩

/-! ## The capacity -/

theorem accept_of_not_fits {s : State} (hf : s.fits (stripPadding s.pay.toList).length = false) :
    accept s = .refused .msgCapExceeded := by
  simp [accept, hf]

theorem State.fits_eq_false_iff (s : State) (n : Nat) :
    s.fits n = false ↔ ∃ cap, s.msgCap = some cap ∧ cap < s.msg.mlen + n := by
  rw [← Bool.not_eq_true, State.fits_iff]
  push Not
  rfl

/-- A step takes the Message no further than the capacity it was within (R72). -/
theorem step_mlen_le {s t : State} {cap : Nat} (hcap : s.msgCap = some cap) (hle : s.msg.mlen ≤ cap)
    (h : step s = .next t) : t.msg.mlen ≤ cap := by
  cases step_cases h with
  | accept _ _ _ _ _ _ _ _ _ hf _ ht => simpa [ht] using (State.fits_iff s _).mp hf cap hcap
  | _ => simp_all

/-- Settles O21: a valid block is answered by `accept`, which refuses what does not fit. -/
theorem appendBeyondCapacityIsRefused : Obligations.AppendBeyondCapacityIsRefused := by
  refine ⟨fun s cap hr hst hi hcmp hcap hlong => ?_, fun s t cap hcap hle h => ?_⟩
  · have hc : s.cmpOk = true := (State.cmpOk_iff_toNat s).mpr hcmp
    have hs : s.sumOk s.sum = true := (State.sumOk_iff _ s).mpr rfl
    calc exec (.bodybyte s.sum) s = verdict s.sum s :=
          execBodybyte_last s.sum (State.inBody_of_idx_eight hr hst hi) hi
      _ = accept s := verdict_accept hc hs
      _ = .refused .msgCapExceeded := accept_of_not_fits ((State.fits_eq_false_iff s _).mpr ⟨cap, hcap, hlong⟩)
  · exact ⟨(step_msgCap h).trans hcap, step_mlen_le hcap hle h⟩

/-! ## Every reachable encoding has an answer -/

theorem exists_exec_of_decodeRx_control {s : State} {i : Instr} {x : Symbol} (hc : s.atControl = true)
    (hd : decodeRx .control x = .ok i) : ∃ t, exec i s = .next t := by
  obtain ⟨-, hd'⟩ | ⟨-, hd'⟩ | ⟨-, hd'⟩ | ⟨-, -, -, j, hd', hn⟩ := decodeRx_control_cases x
  all_goals cases hd'.symm.trans hd
  · exact ⟨_, execEot_of_atControl hc⟩
  · exact ⟨_, execBlock_of_atControl hc⟩
  · exact ⟨_, execRxerr_of_decoded x.data (.inl hc)⟩
  · exact ⟨_, exec_noise_of_atControl hn hc⟩

/-- The verdict refuses an accepted append beyond the capacity, and nothing else. -/
theorem verdict_total (k : Byte) (s : State) :
    (∃ t, verdict k s = .next t) ∨
    (verdict k s = .refused .msgCapExceeded ∧ verdictLabel k s = .accept ∧
      s.fits (stripPadding s.pay.toList).length = false) := by
  cases hc : s.cmpOk with
  | false => exact .inl ⟨_, verdict_framingError hc⟩
  | true =>
    cases hs : s.sumOk k with
    | false => exact .inl ⟨_, verdict_checksumError hc hs⟩
    | true =>
      rw [verdict_accept hc hs]
      cases hf : s.fits (stripPadding s.pay.toList).length with
      | true => exact .inl ⟨_, accept_of_fits hf⟩
      | false => exact .inr ⟨accept_of_not_fits hf, verdictLabel_of_pass hc hs, rfl⟩

/-- A framer with an empty queue holds its state (R62, R249; log 8). -/
theorem step_of_empty {s : State} (ha : Active s) (hq : s.rxq = []) : step s = .next s ∧ stepLabel s = none := by
  have hf : s.fetch = .hold := by cases hst : s.st <;> simp [State.fetch, State.context, hst, hq]
  exact ⟨by simp [step_active ha, hf], by simp [stepLabel_active ha, hf]⟩

theorem step_total_of_inBody {s : State} (hrst : s.rst = false) (hb : s.inBody = true) :
    (∃ t, step s = .next t) ∨
    (step s = .refused .msgCapExceeded ∧ stepLabel s = some .accept ∧
      s.fits (stripPadding s.pay.toList).length = false) := by
  have ha := Active.of_inBody hrst hb
  cases hq : s.rxq with
  | nil => exact .inl ⟨s, (step_of_empty ha hq).1⟩
  | cons x xs =>
    have hst := State.st_of_inBody hb
    rw [step_active ha, stepLabel_active ha, fetch_body hst hq]
    cases he : x.err with
    | true => exact .inl ⟨_, execRxerr_of_decoded (s := s.popRx) x.data (.inr hb)⟩
    | false =>
      by_cases h8 : s.idx = 8
      · have hlast : exec (.bodybyte x.data) s.popRx = verdict x.data s.popRx :=
          execBodybyte_last (s := s.popRx) x.data hb h8
        have hl : instrLabel s (.bodybyte x.data) = some (verdictLabel x.data s.popRx) := if_pos h8
        simpa [hlast, hl] using verdict_total x.data s.popRx
      · exact .inl ⟨_, execBodybyte_of_ne_eight (s := s.popRx) x.data hb h8⟩

theorem step_total {s : State} (h : s.rst = true ∨ s.seqOk = true) :
    (∃ t, step s = .next t) ∨
    (step s = .refused .msgCapExceeded ∧ stepLabel s = some .accept ∧
      s.fits (stripPadding s.pay.toList).length = false) := by
  by_cases hrst : s.rst = true
  · exact .inl ⟨_, step_of_rst hrst⟩
  have hok : s.seqOk = true := h.resolve_left hrst
  have hrst : s.rst = false := by simpa using hrst
  by_cases hr : s.rdy = true
  · exact .inl ⟨_, step_of_rdy hrst hok hr⟩
  have ha : Active s := ⟨hrst, by simpa using hr, hok⟩
  rcases State.seqOk_cases s hok ha.rdy with hc | hb | ⟨hd, -⟩ | ⟨hd, -⟩
  · obtain ⟨-, hst, -⟩ := (State.atControl_iff s).mp hc
    cases hq : s.rxq with
    | nil => exact .inl ⟨s, (step_of_empty ha hq).1⟩
    | cons x xs =>
      obtain ⟨i, hd⟩ := decodeRx_control_total x
      rw [step_active ha, fetch_control hst hq hd]
      exact .inl (exists_exec_of_decodeRx_control (s := s.popRx) hc hd)
  · exact step_total_of_inBody hrst hb
  · exact .inl ⟨s, (step_terminal hrst hok (.inl hd)).2⟩
  · exact .inl ⟨s, (step_terminal hrst hok (.inr hd)).2⟩

/-- Settles O43: `step_total`, with what does not fit read as a number. -/
theorem everyReachableStateSteps : Obligations.EveryReachableStateSteps := by
  intro s h
  simpa only [State.fits_eq_false_iff] using step_total h

end Sys2Proof.Machine
end

section
/-! SUPPORT. Frames: which register a step or a meaning writes (R24 to R27, R32, 10_state.md; R141 to R144, 41_block.md),
and where a meaning is refused (R102, R105, 30_encoding.md). -/

namespace Sys2Proof.Machine

/-! ## The status flags -/

/-- The framer is in `Failed` after a step exactly if it was, or the step is `IoFailure` (R222, R224). -/
theorem step_failed_iff {s t : State} (hrst : s.rst = false) (h : step s = .next t) :
    t.st = .failed ↔ s.st = .failed ∨ stepLabel s = some .ioFailure := by
  by_cases hf : s.st = .failed
  · obtain ⟨-, hhold⟩ := step_terminal hrst (seqOk_of_step hrst h) (.inr hf)
    obtain rfl : s = t := by simpa [hhold] using h
    simp [hf]
  · cases step_cases h with
    | reject _ _ _ _ _ _ _ hv hl ht =>
      rcases verdictLabel_of_fail hv with hlabel | hlabel <;> simp [hl, hlabel, ht, hf]
    | _ => simp_all

/-- Settles O32: `step_done_iff` and `step_failed_iff` out of reset; the reset edge has no label and clears both. -/
theorem flagsSetByTheirStepsOnly : Obligations.FlagsSetByTheirStepsOnly := by
  intro s t h
  cases hrst : s.rst with
  | true =>
    rw [step_of_rst hrst] at h
    cases h
    simp [stepLabel_of_rst hrst, State.doneFlag, State.failFlag]
  | false =>
    simp only [← Bool.not_eq_true, State.doneFlag_iff, State.failFlag_iff, step_done_iff hrst h,
      step_failed_iff hrst h]
    exact ⟨fun hne => or_iff_right hne, fun hne => or_iff_right hne, fun _ => ⟨.inl, .inl⟩⟩

/-! ## The writers of the staging registers -/

theorem payloadOffset_toNat (j : Fin 5) : (BitVec.ofNat 4 (3 + j.val)).toNat = 3 + j.val := by
  revert j
  decide

theorem three_le_payloadOffset (j : Fin 5) : 3 ≤ BitVec.ofNat 4 (3 + j.val) := by
  revert j
  decide

section
variable {s t : State} (h : step s = .next t)
include h

/-- `seq` is written at offset 1 only (R24, R141). -/
theorem step_seq (hne : t.seq ≠ s.seq) :
    s.inBody = true ∧ s.idx = 1 ∧ ∃ x xs, s.rxq = x :: xs ∧ x.err = false ∧ t.seq = x.data := by
  cases step_cases h with
  | sequence _ hb hi x xs hq he _ ht => exact ⟨hb, hi, x, xs, hq, he, by simp [ht]⟩
  | _ => simp_all

/-- `cmp` is written at offset 2 only (R25, R142). -/
theorem step_cmp (hne : t.cmp ≠ s.cmp) :
    s.inBody = true ∧ s.idx = 2 ∧ ∃ x xs, s.rxq = x :: xs ∧ x.err = false ∧ t.cmp = x.data := by
  cases step_cases h with
  | complement _ hb hi x xs hq he _ ht => exact ⟨hb, hi, x, xs, hq, he, by simp [ht]⟩
  | _ => simp_all

/-- `sum` is cleared by the start marker and added to at offsets 3 to 7 (R26, R140, R143). -/
theorem step_sum (hne : t.sum ≠ s.sum) :
    (stepLabel s = some .blockStart ∧ t.sum = 0) ∨
    (s.inBody = true ∧ 3 ≤ s.idx ∧ s.idx ≤ 7 ∧
      ∃ x xs, s.rxq = x :: xs ∧ x.err = false ∧ t.sum.toNat = (s.sum.toNat + x.data.toNat) % 256) := by
  cases step_cases h with
  | blockStart _ _ _ _ hl ht => exact .inl ⟨hl, by simp [ht]⟩
  | payload _ hb j hi x xs hq he _ ht =>
    obtain ⟨-, h7⟩ := payloadOffset_inRange j
    exact .inr ⟨hb, hi ▸ three_le_payloadOffset j, hi ▸ h7, x, xs, hq, he, by simp [ht]⟩
  | _ => simp_all

/-- `pay[j]` is written at offset `3 + j` only (R27, R143). -/
theorem step_pay (j : Fin 5) (hne : t.pay.get j ≠ s.pay.get j) :
    s.inBody = true ∧ s.idx.toNat = 3 + j.val ∧
      ∃ x xs, s.rxq = x :: xs ∧ x.err = false ∧ t.pay.get j = x.data := by
  cases step_cases h with
  | payload _ hb i hi x xs hq he _ ht =>
    have hpay : t.pay.get j = if i = j then x.data else s.pay.get j := by simp [ht, PayRegs.get_set]
    obtain rfl : i = j := by
      by_contra hij
      exact hne (by rw [hpay, if_neg hij])
    exact ⟨hb, hi ▸ payloadOffset_toNat i, x, xs, hq, he, by simp [hpay]⟩
  | _ => simp_all

end

/-- Settles O41, one lemma for each register. -/
theorem stagingRegistersHaveOneWriter : Obligations.StagingRegistersHaveOneWriter := fun _ _ h =>
  ⟨step_seq h, step_cmp h, step_sum h, step_pay h⟩

/-! ## The frame of BODYBYTE -/

/-- The verdict writes the Message when it accepts, by one append, and not otherwise (R71, R144). -/
theorem verdict_msg {k : Byte} {s t : State} (h : verdict k s = .next t) :
    (verdictLabel k s ≠ .accept ∧ t.msg = s.msg) ∨
    (verdictLabel k s = .accept ∧ t.msg = s.msg.append (stripPadding s.pay.toList)) := by
  obtain ⟨hv, ht⟩ | ⟨hc, hs, hacc⟩ := verdict_next h
  · refine .inl ⟨?_, by simp [ht]⟩
    rcases verdictLabel_of_fail hv with hl | hl <;> simp [hl]
  · obtain ⟨-, ht⟩ := accept_next hacc
    exact .inr ⟨verdictLabel_of_pass hc hs, by simp [ht]⟩

/-- The verdict writes no staging register and nothing outside the framer (R144, R148, R149). -/
theorem verdict_frame {k : Byte} {s t : State} (h : verdict k s = .next t) :
    t.seq = s.seq ∧ t.cmp = s.cmp ∧ t.sum = s.sum ∧ t.pay = s.pay ∧ t.rdy = s.rdy ∧ t.rxn = s.rxn ∧
      t.rxq = s.rxq ∧ t.rst = s.rst ∧ t.msgCap = s.msgCap := by
  obtain ⟨-, ht⟩ | ⟨-, -, hacc⟩ := verdict_next h
  · subst ht
    exact ⟨rfl, rfl, rfl, rfl, rfl, rfl, rfl, rfl, rfl⟩
  · obtain ⟨-, ht⟩ := accept_next hacc
    subst ht
    exact ⟨rfl, rfl, rfl, rfl, rfl, rfl, rfl, rfl, rfl⟩

/-- A body byte writes the register of its own offset alone (R141 to R143). -/
theorem execBodybyte_staging {b : Byte} {s t : State} (h : execBodybyte b s = .next t) :
    (s.idx ≠ 1 → t.seq = s.seq) ∧ (s.idx ≠ 2 → t.cmp = s.cmp) ∧ (¬ (3 ≤ s.idx ∧ s.idx ≤ 7) → t.sum = s.sum) ∧
      ∀ j : Fin 5, s.idx.toNat ≠ 3 + j.val → t.pay.get j = s.pay.get j := by
  obtain ⟨-, ⟨hi, ht⟩ | ⟨hi, ht⟩ | ⟨i, hi, ht⟩ | ⟨-, hv⟩⟩ := execBodybyte_next h
  · exact ⟨fun hne => absurd hi hne, by simp [ht], by simp [ht], by simp [ht]⟩
  · exact ⟨by simp [ht], fun hne => absurd hi hne, by simp [ht], by simp [ht]⟩
  · refine ⟨by simp [ht], by simp [ht], fun hout => ?_, fun j hj => ?_⟩
    · obtain ⟨-, h7⟩ := payloadOffset_inRange i
      exact absurd ⟨hi ▸ three_le_payloadOffset i, hi ▸ h7⟩ hout
    · have hij : i ≠ j := fun hij => hj (by rw [hi, hij, payloadOffset_toNat])
      simp [ht, PayRegs.get_set, hij]
  · obtain ⟨hseq, hcmp, hsum, hpay, -⟩ := verdict_frame hv
    exact ⟨fun _ => hseq, fun _ => hcmp, fun _ => hsum, fun _ _ => by rw [hpay]⟩

/-- A body byte changes nothing outside the framer, and no NAK is owed for it (R62). -/
theorem execBodybyte_frame {b : Byte} {s t : State} (h : execBodybyte b s = .next t) :
    t.rdy = s.rdy ∧ t.rxn = s.rxn ∧ t.rxq = s.rxq ∧ t.rst = s.rst ∧ t.msgCap = s.msgCap := by
  obtain ⟨-, ⟨-, ht⟩ | ⟨-, ht⟩ | ⟨_, -, ht⟩ | ⟨-, hv⟩⟩ := execBodybyte_next h
  · simp [ht]
  · simp [ht]
  · simp [ht]
  · obtain ⟨-, -, -, -, hframe⟩ := verdict_frame hv
    exact hframe

/-- An append leaves every address but those it fills as it was (R70). -/
theorem Memory.read_append_outside {m : Memory} (hm : m.wf = true) {bs : List Byte} {a : Nat}
    (ha : a < m.mlen ∨ m.mlen + bs.length ≤ a) : (m.append bs).read a = m.read a := by
  rcases ha with ha | ha
  · exact Memory.read_append_of_lt hm bs ha
  · rw [Memory.read_of_le (Memory.wf_append m bs hm) (by rwa [Memory.mlen_append]), Memory.read_of_le hm (by omega)]

/-- Settles O26: before offset 8 a byte is staged, at offset 8 the verdict decides whether the Message is appended
to, and the frames of both. -/
theorem frameOfBodyByte : Obligations.FrameOfBodyByte := by
  intro b s t hwf h
  obtain ⟨hb, -⟩ := execBodybyte_next h
  obtain ⟨hseq, hcmp, hsum, hpay⟩ := execBodybyte_staging h
  refine ⟨fun h8 => ?staged, fun h8 hrej => ?rejected, fun h8 hacc a ha => ?accepted, hseq, hcmp, hsum, hpay,
    execBodybyte_frame h⟩
  case staged =>
    have ht : (s.stageByte b).nextOffset = t := by
      simpa using (execBodybyte_of_ne_eight b hb h8).symm.trans h
    subst ht
    simp
  all_goals
    obtain ⟨hne, hmsg⟩ | ⟨heq, hmsg⟩ := verdict_msg ((execBodybyte_last b hb h8).symm.trans h)
  case rejected.inl => exact ⟨hmsg, fun a => by rw [hmsg]⟩
  case rejected.inr => exact absurd heq hrej
  case accepted.inl => exact absurd hacc hne
  case accepted.inr => rw [hmsg, Memory.read_append_outside hwf ha]

/-! ## The frame of the control instructions, and RXERR -/

theorem execRxerr_next {d : Byte} {s t : State} (h : execRxerr d s = .next t) : t = s.goto .failed 0 := by
  obtain ⟨-, ht⟩ := whenDecoded_next.mp h
  simpa [raise] using ht.symm

/-- Settles O25: each of the four families has one answer, a named update. -/
theorem frameOfControlInstructions : Obligations.FrameOfControlInstructions := by
  intro i s t hi h
  obtain rfl | rfl | ⟨b, hn⟩ | ⟨d, rfl⟩ := hi
  · obtain ⟨-, ht⟩ := whenDecoded_next.mp h
    cases ht
    simp
  · obtain ⟨-, ht⟩ := whenDecoded_next.mp h
    cases ht
    simp
  · rw [exec_of_noiseByte hn] at h
    obtain ⟨-, ht⟩ := whenDecoded_next.mp h
    cases ht
    simp
  · obtain rfl := execRxerr_next (d := d) h
    simp

/-! ## Refused where not decoded -/

theorem whenDecoded_of_not {here : Bool} {p : Prop} (hiff : here = true ↔ p) (hp : ¬ p) (r : Result) :
    whenDecoded here r = .refused .notDecodedHere := by
  simp [whenDecoded, hiff, hp]

/-- RXERR is decoded at control and within a block (opcode table). -/
theorem State.atControl_or_inBody_iff (s : State) :
    (s.atControl || s.inBody) = true ↔
      s.rdy = false ∧ ((s.st = .awaitingControl ∧ s.idx = 0) ∨
        (s.st = .readingBlockBody ∧ 1 ≤ s.idx ∧ s.idx ≤ 8)) := by
  rw [Bool.or_eq_true, State.atControl_iff, State.inBody_iff, and_or_left]

/-- Settles O24: every meaning of the RX direction stands under the guard of its `decoded_in` states. -/
theorem refusedWhereNotDecoded : Obligations.RefusedWhereNotDecoded := by
  refine ⟨fun i s hi hnot => ?_, fun b s hnot => whenDecoded_of_not s.inBody_iff hnot _,
    fun d s hnot => whenDecoded_of_not s.atControl_or_inBody_iff hnot _⟩
  obtain rfl | rfl | ⟨b, hn⟩ := hi
  · exact whenDecoded_of_not s.atControl_iff hnot _
  · exact whenDecoded_of_not s.atControl_iff hnot _
  · rw [exec_of_noiseByte hn]
    exact whenDecoded_of_not s.atControl_iff hnot _

/-- Settles O23: the two bytes decode, and each meaning is one `txWrite`. -/
theorem responseBytesAreWritten : Obligations.ResponseBytesAreWritten :=
  ⟨rfl, rfl, fun _ => ⟨rfl, rfl⟩⟩

end Sys2Proof.Machine
end

section
/-! SUPPORT. The invariant's two obligations, the step by its decoded instruction, the waiting framer, the terminal
states, priority, the opening of a session, and the facts about the filter, the host's read and the checksum. -/

namespace Sys2Proof.Machine

/-- Settles O35: each clause of `Inv` is kept, by `Inv.step`. -/
theorem everyStepKeepsInvariant : Obligations.EveryStepKeepsInvariant := fun _ _ => Inv.step

/-- Settles O34: no clause of `Inv` speaks of the queue. -/
theorem invariantAtReset : Obligations.InvariantAtReset := Inv.reset

/-- Settles O1: each word is decoded by evaluation of the opcode table. -/
theorem writtenWordsDecode : Obligations.WrittenWordsDecode := by
  unfold Obligations.WrittenWordsDecode
  decide

/-! ## The decoded instruction -/

theorem fetch_of_context {s : State} {ctx : DecodeContext} {x : Symbol} {xs : List Symbol} {i : Instr}
    (hctx : s.context = some ctx) (hq : s.rxq = x :: xs) (hd : decodeRx ctx x = .ok i) : s.fetch = .instr i := by
  simp [State.fetch, hctx, hq, hd]

theorem State.popRx_of_cons {s : State} {x : Symbol} {xs : List Symbol} (hq : s.rxq = x :: xs) :
    s.popRx = { s with rxq := xs, rxn := s.rxn + 1 } := by
  simp [State.popRx, hq]

/-- Settles O7: an active framer executes what it fetches, and fetches what the head decodes to. -/
theorem stepRunsDecodedInstruction : Obligations.StepRunsDecodedInstruction := by
  intro s ctx x xs i hrst hr hok hwhere hq hd
  have hctx : s.context = some ctx := by
    rcases hwhere with ⟨hst, rfl⟩ | ⟨hst, rfl⟩ <;> simp [State.context, hst]
  rw [step_active ⟨hrst, hr, hok⟩, fetch_of_context hctx hq hd, State.popRx_of_cons hq]

/-! ## Waiting -/

/-- A running framer has a labelled step for every symbol at the head of its queue (R107). -/
theorem stepLabel_of_cons {s : State} {x : Symbol} {xs : List Symbol} (ha : Active s)
    (hst : s.st = .awaitingControl ∨ s.st = .readingBlockBody) (hq : s.rxq = x :: xs) : stepLabel s ≠ none := by
  rw [stepLabel_active ha]
  rcases hst with hst | hst
  · obtain ⟨-, hd⟩ | ⟨-, hd⟩ | ⟨-, hd⟩ | ⟨-, -, -, i, hd, hn⟩ := decodeRx_control_cases x
    all_goals rw [fetch_control hst hq hd]
    case inr.inr.inr => simp [instrLabel_of_noiseByte hn]
    all_goals simp [instrLabel]
  · rw [fetch_body hst hq]
    cases x.err with
    | true => simp [instrLabel]
    | false =>
      change instrLabel s (.bodybyte x.data) ≠ none
      rw [instrLabel]
      split <;> simp

/-- Settles O9: with an empty queue nothing is fetched; an arrived symbol is the head. -/
theorem waitHoldsUntilArrival : Obligations.WaitHoldsUntilArrival := by
  rintro s ⟨hrst, hr, hrun, hq⟩ hok
  obtain ⟨hstep, hl⟩ := step_of_empty ⟨hrst, hr, hok⟩ hq
  refine ⟨hstep, hl, fun x => ?_⟩
  exact stepLabel_of_cons (s := s.arrive x) (x := x) (xs := []) ⟨hrst, hr, hok⟩
    ((State.outcome_running_iff s).mp hrun) (by simp [hq])

/-! ## The terminal states -/

/-- In a terminal state a run without a reset only lets the arriving symbols join the queue (R132, R224). -/
theorem runEvents_terminal {es : List Event} {s : State} (hrst : s.rst = false) (hok : s.seqOk = true)
    (ht : s.st = .done ∨ s.st = .failed) (hes : ∀ e ∈ es, e.notReset = true) :
    runEvents es s = .next { s with rxq := s.rxq ++ arrivals es } := by
  induction es generalizing s with
  | nil => simp [runEvents, arrivals]
  | cons e es ih =>
    obtain ⟨he, hrest⟩ := List.forall_mem_cons.mp hes
    cases e with
    | tick =>
      obtain ⟨-, hhold⟩ := step_terminal hrst hok ht
      simpa [runEvents, applyEvent, hhold, arrivals] using ih hrst hok ht hrest
    | arrive x =>
      simpa [runEvents, applyEvent, arrivals, State.arrive] using ih (s := s.arrive x) hrst hok ht hrest
    | setRst l => cases he

/-- Settles O10: `runEvents_terminal`, and the reset edge takes any state to control. -/
theorem terminalStatesHold : Obligations.TerminalStatesHold := by
  intro s ht hr hi
  have hok : s.seqOk = true := by rcases ht with h | h <;> simp [State.seqOk, h, hr, hi]
  exact ⟨State.rxReady_of_terminal ht, fun hrst es => runEvents_terminal hrst hok ht,
    fun hrst => ⟨_, step_of_rst hrst, rfl⟩⟩

/-! ## Priority -/

/-- An `Err` at the head of a running framer's queue is `IoFailure`, at control and within a block (R222). -/
theorem step_err {s : State} {x : Symbol} {xs : List Symbol} (ha : Active s)
    (hst : s.st = .awaitingControl ∨ s.st = .readingBlockBody) (hq : s.rxq = x :: xs) (he : x.err = true) :
    step s = .next (s.popRx.goto .failed 0) ∧ stepLabel s = some .ioFailure := by
  obtain ⟨hl, -⟩ := stepGoes_ioFailure ha hst hq he
  have hf : s.fetch = .instr (.rxerr x.data) := by
    rcases hst with h | h
    · exact fetch_control h hq (decodeRx_control_err x he)
    · simp [fetch_body h hq, he]
  have hd : s.popRx.atControl = true ∨ s.popRx.inBody = true :=
    hst.imp (State.atControl_of_seqOk ha.seqOk ha.rdy) (State.inBody_of_seqOk ha.seqOk ha.rdy)
  refine ⟨?_, hl⟩
  rw [step_active ha, hf]
  exact execRxerr_of_decoded x.data hd

/-- Settles O48: each rank of R230 is one lemma about `verdictLabel` or `step`. -/
theorem priorityOfConditions : Obligations.PriorityOfConditions := by
  refine ⟨fun s k hc _ => ?complementFirst, fun s d e xs hrst hr hok hrun => ?errData, fun s x hrst hr hok => ?ready,
    fun s hrst => ⟨stepLabel_of_rst hrst, step_of_rst hrst⟩⟩
  case complementFirst =>
    exact verdictLabel_framingError k (Bool.eq_false_iff.mpr (mt (State.cmpOk_iff s).mp hc))
  case errData =>
    have herr := fun d : Byte =>
      step_err (s := { s with rxq := errSymbol d :: xs }) ⟨hrst, hr, hok⟩ ((State.outcome_running_iff s).mp hrun) rfl
        (errSymbol_err d)
    obtain ⟨hd, hl⟩ := herr d
    obtain ⟨he, -⟩ := herr e
    exact ⟨hd.trans he.symm, hl⟩
  case ready =>
    exact step_of_rdy (s := { s with rxq := x :: s.rxq }) hrst hok hr

/-! ## The opening of a session -/

/-- Settles O12: the reset edge, then `Ready` from the released reset state. -/
theorem everySessionOpensWithOneNak : Obligations.EverySessionOpensWithOneNak := by
  intro s
  refine ⟨ready (s.takeReset.setRst false), ?_, rfl, rfl, rfl, rfl, rfl, rfl, rfl, rfl⟩
  have hedge : step (s.setRst true) = .next (s.setRst true).takeReset := step_of_rst rfl
  have hready : step ((s.setRst true).takeReset.setRst false) = .next (ready (s.takeReset.setRst false)) :=
    step_of_rdy rfl s.takeReset_released_seqOk rfl
  simp only [runEvents, applyEvent, hedge, hready]

/-! ## The filter, the host's read and the checksum -/

/-- Settles O29: the filter is `List.filter` by a test that only padding fails. -/
theorem paddingFilterRemovesExactlyPadding : Obligations.PaddingFilterRemovesExactlyPadding := by
  intro p0 p1 p2 p3 p4
  exact ⟨List.filter_sublist, fun h => stripPadding_ne _ _ h rfl,
    fun b hb => List.count_filter (by simpa using hb), List.length_filter_le _ _⟩

theorem State.readable_iff (s : State) : s.readable = true ↔ s.st = .done ∨ s.st = .failed := by
  simp [State.readable]

theorem memRead_of_readable {s : State} (hr : s.readable = true) (draw a : Nat) :
    memRead draw a s = (s.msg.read a).getD (Config.unspecifiedByte draw) := if_pos hr

theorem memRead_of_running {s : State} (hr : s.readable = false) (draw a : Nat) :
    memRead draw a s = Config.unspecifiedByte draw := if_neg (by simp [hr])

/-- Settles O33: in canonical form the read is the byte at the position, and past the length there is none. -/
theorem hostReadsFinishedMessage : Obligations.HostReadsFinishedMessage := by
  intro s draw a hwf
  refine ⟨fun ht ha => ?held, fun hfree => ?free⟩
  case held =>
    have hlen : a < s.msg.bytes.length := by rwa [Memory.length_bytes]
    rw [memRead_of_readable ((State.readable_iff s).mpr ht), Memory.read_eq _ hwf, List.getElem?_eq_getElem hlen]
    rfl
  case free =>
    cases hr : s.readable with
    | false => exact memRead_of_running hr draw a
    | true =>
      have ha : s.msg.mlen ≤ a := by
        refine hfree.resolve_left fun hrun => ?_
        rcases (State.readable_iff s).mp hr with h | h <;> simp [State.outcome, h] at hrun
      rw [memRead_of_readable hr, Memory.read_of_le hwf ha, Option.getD_none]

theorem payloadSum_eq_sum (f : Frame) : payloadSum f.p0 f.p1 f.p2 f.p3 f.p4 = f.payload.sum := by
  simp [payloadSum_eq, Frame.payload, BitVec.add_assoc]

/-- Settles O30: the checksum is the sum of the payload as a list, which a permutation keeps. -/
theorem checksumMissesReordering : Obligations.ChecksumMissesReordering := by
  intro f g hf hn hc hk hperm
  have hsum : payloadSum g.p0 g.p1 g.p2 g.p3 g.p4 = payloadSum f.p0 f.p1 f.p2 f.p3 f.p4 := by
    rw [payloadSum_eq_sum, payloadSum_eq_sum, hperm.sum_eq]
  simpa [frameValid, frameComplementOk, frameSumOk, hn, hc, hk, hsum] using hf

end Sys2Proof.Machine
end

section
/-! SUPPORT. Dead staging registers (R28, R35, 10_state.md): two states that differ in them alone step alike, because a
register is read only after the block has written it. -/

namespace Sys2Proof

open Machine

theorem Machine.PayRegs.eq_of_get {p q : PayRegs} (h : ∀ i, p.get i = q.get i) : p = q := by
  cases p
  cases q
  exact (PayRegs.mk.injEq ..).mpr ⟨h 0, h 1, h 2, h 3, h 4⟩

/-! ## The updates that read no staging register -/

namespace SameButDeadStaging

variable {s t u v : State}

theorem refl (s : State) : SameButDeadStaging s s :=
  ⟨rfl, rfl, rfl, rfl, rfl, rfl, rfl, rfl, rfl, fun _ => rfl, fun _ => rfl, fun _ => rfl, fun _ _ => rfl⟩

theorem popRx (h : SameButDeadStaging s u) : SameButDeadStaging s.popRx u.popRx :=
  { h with rxn := congrArg (· + 1) h.rxn, rxq := congrArg List.tail h.rxq }

theorem txWrite (h : SameButDeadStaging s u) (b : Byte) : SameButDeadStaging (s.txWrite b) (u.txWrite b) :=
  { h with tx := congrArg (· ++ [b]) h.tx }

theorem clearRdy (h : SameButDeadStaging s u) : SameButDeadStaging s.clearRdy u.clearRdy :=
  { h with rdy := rfl }

theorem arrive (h : SameButDeadStaging s u) (x : Symbol) : SameButDeadStaging (s.arrive x) (u.arrive x) :=
  { h with rxq := congrArg (· ++ [x]) h.rxq }

theorem setRst (h : SameButDeadStaging s u) (l : Bool) : SameButDeadStaging (s.setRst l) (u.setRst l) :=
  { h with rst := rfl }

/-- At offset 0 every staging register is dead. -/
theorem goto_zero (h : SameButDeadStaging s u) (q : St) : SameButDeadStaging (s.goto q 0) (u.goto q 0) :=
  { h with st := rfl, idx := rfl, staging := by simp [stagingAgree] }

theorem takeReset (h : SameButDeadStaging s u) : SameButDeadStaging s.takeReset u.takeReset :=
  { h with st := rfl, rdy := rfl, idx := rfl, msg := rfl, tx := rfl, rxn := rfl, staging := by simp [stagingAgree] }

/-- A block starts with `sum` alone written (R140). -/
theorem startBlock (h : SameButDeadStaging s u) : SameButDeadStaging s.startBlock u.startBlock :=
  { h with st := rfl, idx := rfl, staging := ⟨fun _ => rfl, by simp, by simp, by simp; omega⟩ }

/-! ## A body byte -/

/-- At the checksum byte every staging register is live, so nothing is left to differ. -/
theorem eq_of_idx_eight (h : SameButDeadStaging s u) (h8 : s.idx = 8) : s = u := by
  obtain ⟨hst, hrdy, hidx, hmsg, htx, hrxn, hrxq, hrst, hcap, hsum, hseq, hcmp, hpay⟩ := h
  have hlive : ∀ i : Fin 5, s.pay.get i = u.pay.get i := fun i => hpay i (by rw [h8]; simp; omega)
  have hp : s.pay = u.pay := PayRegs.eq_of_get hlive
  have hsum : s.sum = u.sum := hsum (by simp [h8])
  have hseq : s.seq = u.seq := hseq (by simp [h8])
  have hcmp : s.cmp = u.cmp := hcmp (by simp [h8])
  cases s
  cases u
  simp_all

/-- A staged byte is the same in both, and the registers that were live stay so (R141 to R143). -/
theorem stagingAgree_stageByte (h : SameButDeadStaging s u) (b : Byte) (hb : s.inBody = true) (h8 : s.idx ≠ 8) :
    stagingAgree (s.idx + 1).toNat (s.stageByte b) (u.stageByte b) := by
  obtain ⟨-, -, h1, hle⟩ := (State.inBody_iff s).mp hb
  obtain ⟨hsum, hseq, hcmp, hpay⟩ := h.staging
  obtain ⟨hi, -⟩ | ⟨hi, -⟩ | ⟨j, hi, -⟩ | ⟨hi, -⟩ := fieldAt_cases s.idx h1 hle
  · rw [hi] at hsum
    rw [State.stageByte_sequence b hi, State.stageByte_sequence b (h.idx ▸ hi), hi]
    exact ⟨fun _ => hsum (by simp), fun _ => rfl, by simp, by simp; omega⟩
  · rw [hi] at hsum hseq
    rw [State.stageByte_complement b hi, State.stageByte_complement b (h.idx ▸ hi), hi]
    exact ⟨fun _ => hsum (by simp), fun _ => hseq (by simp), fun _ => rfl, by simp; omega⟩
  · rw [hi, payloadOffset_toNat] at hsum hseq hcmp hpay
    have hnext : (s.idx + 1).toNat = 4 + j.val := by
      rw [hi, payloadOffset_succ]
      simp
      omega
    rw [State.stageByte_payload b j hi, State.stageByte_payload b j (h.idx ▸ hi), hnext]
    refine ⟨fun _ => congrArg (· + b) (hsum (by omega)), fun _ => hseq (by omega), fun _ => hcmp (by omega),
      fun i hij => ?_⟩
    by_cases heq : j = i
    · simp [PayRegs.get_set, heq]
    · have hlive : 4 + i.val ≤ 3 + j.val := by omega
      simp [PayRegs.get_set, heq, hpay i hlive]
  · exact absurd hi h8

theorem nextOffset_stageByte (h : SameButDeadStaging s u) (b : Byte) (hb : s.inBody = true) (h8 : s.idx ≠ 8) :
    SameButDeadStaging (s.stageByte b).nextOffset (u.stageByte b).nextOffset where
  st := rfl
  rdy := by simp [h.rdy]
  idx := by simp [h.idx]
  msg := by simp [h.msg]
  tx := by simp [h.tx]
  rxn := by simp [h.rxn]
  rxq := by simp [h.rxq]
  rst := by simp [h.rst]
  msgCap := by simp [h.msgCap]
  staging := by simpa [stagingAgree] using h.stagingAgree_stageByte b hb h8

/-! ## A meaning and a step -/

theorem atControl_eq (h : SameButDeadStaging s u) : u.atControl = s.atControl := by
  simp [State.atControl, h.rdy, h.st, h.idx]

theorem inBody_eq (h : SameButDeadStaging s u) : u.inBody = s.inBody := by
  simp [State.inBody, h.rdy, h.st, h.idx]

theorem seqOk_eq (h : SameButDeadStaging s u) : u.seqOk = s.seqOk := by
  simp [State.seqOk, h.rdy, h.st, h.idx]

theorem fetch_eq (h : SameButDeadStaging s u) : u.fetch = s.fetch := by
  simp [State.fetch, State.context, h.st, h.rxq]

/-- A guarded meaning that is one update of the state answers alike when the update keeps the relation. -/
theorem whenDecoded_next {f : State → State} {here here' : Bool} (hf : SameButDeadStaging (f s) (f u))
    (hhere : here' = here) (hs : whenDecoded here (.next (f s)) = .next t) :
    ∃ v, whenDecoded here' (.next (f u)) = .next v ∧ SameButDeadStaging t v := by
  obtain ⟨hd, ht⟩ := Machine.whenDecoded_next.mp hs
  cases ht
  exact ⟨f u, Machine.whenDecoded_next.mpr ⟨hhere.trans hd, rfl⟩, hf⟩

theorem execBodybyte_next (h : SameButDeadStaging s u) {b : Byte} (hs : execBodybyte b s = .next t) :
    ∃ v, execBodybyte b u = .next v ∧ SameButDeadStaging t v := by
  obtain ⟨hb, -⟩ := Machine.execBodybyte_next hs
  by_cases h8 : s.idx = 8
  · exact ⟨t, h.eq_of_idx_eight h8 ▸ hs, refl t⟩
  · rw [execBodybyte_of_ne_eight b hb h8] at hs
    cases hs
    exact ⟨_, execBodybyte_of_ne_eight b (h.inBody_eq.trans hb) (h.idx ▸ h8), h.nextOffset_stageByte b hb h8⟩

theorem exec_next (h : SameButDeadStaging s u) {i : Instr} (hs : exec i s = .next t) :
    ∃ v, exec i u = .next v ∧ SameButDeadStaging t v := by
  cases i with
  | eot =>
    exact whenDecoded_next (f := fun s => (s.txWrite Config.ACK).goto .done 0) ((h.txWrite _).goto_zero _)
      h.atControl_eq hs
  | block => exact whenDecoded_next (f := State.startBlock) h.startBlock h.atControl_eq hs
  | rxerr d =>
    exact whenDecoded_next (f := fun s => s.goto .failed 0) (h.goto_zero _)
      (congrArg₂ or h.atControl_eq h.inBody_eq) hs
  | bodybyte b => exact h.execBodybyte_next hs
  | ack =>
    cases hs
    exact ⟨_, rfl, h.txWrite _⟩
  | nak =>
    cases hs
    exact ⟨_, rfl, h.txWrite _⟩
  | _ => exact whenDecoded_next (f := id) h h.atControl_eq hs

theorem step_next (h : SameButDeadStaging s u) (hs : step s = .next t) :
    ∃ v, step u = .next v ∧ SameButDeadStaging t v := by
  by_cases hrst : s.rst = true
  · rw [step_of_rst hrst] at hs
    cases hs
    exact ⟨_, step_of_rst (h.rst ▸ hrst), h.takeReset⟩
  have hrst : s.rst = false := by simpa using hrst
  have hok := seqOk_of_step hrst hs
  by_cases hr : s.rdy = true
  · rw [step_of_rdy hrst hok hr] at hs
    cases hs
    exact ⟨_, step_of_rdy (h.rst ▸ hrst) (h.seqOk_eq.trans hok) (h.rdy ▸ hr), (h.txWrite _).clearRdy⟩
  have ha : Active s := ⟨hrst, by simpa using hr, hok⟩
  have hau : Active u := ⟨h.rst ▸ ha.rst, h.rdy ▸ ha.rdy, h.seqOk_eq.trans hok⟩
  rw [step_active ha] at hs
  rw [step_active hau, h.fetch_eq]
  cases hf : s.fetch with
  | hold =>
    rw [hf] at hs
    cases hs
    exact ⟨u, rfl, h⟩
  | instr i =>
    rw [hf] at hs
    exact h.popRx.exec_next hs
  | noRow =>
    rw [hf] at hs
    cases hs

theorem applyEvent_next (h : SameButDeadStaging s u) {e : Event} (hs : applyEvent e s = .next t) :
    ∃ v, applyEvent e u = .next v ∧ SameButDeadStaging t v := by
  cases e with
  | tick => exact h.step_next hs
  | arrive x =>
    cases hs
    exact ⟨_, rfl, h.arrive x⟩
  | setRst l =>
    cases hs
    exact ⟨_, rfl, h.setRst l⟩

theorem runEvents_next (h : SameButDeadStaging s u) {es : List Event} (hs : runEvents es s = .next t) :
    ∃ v, runEvents es u = .next v ∧ SameButDeadStaging t v := by
  induction es generalizing s u with
  | nil =>
    cases hs
    exact ⟨u, rfl, h⟩
  | cons e es ih =>
    obtain ⟨s', he, hrest⟩ := runEvents_cons_next.mp hs
    obtain ⟨u', heu, h'⟩ := h.applyEvent_next he
    obtain ⟨v, hv, hsame⟩ := ih h' hrest
    exact ⟨v, runEvents_cons_next.mpr ⟨u', heu, hv⟩, hsame⟩

theorem observe_eq (h : SameButDeadStaging s u) : s.observe = u.observe := by
  simp [State.observe, State.outcome, h.tx, h.msg, h.st, h.rxn]

end SameButDeadStaging

/-- Settles O44: one step is `SameButDeadStaging.step_next`. -/
theorem deadStagingNotReadByStep : Obligations.DeadStagingNotReadByStep := fun _ _ _ h => h.step_next

/-- Settles O45: the relation is kept along a run and hides the staging registers from the observation; at reset the
offset is 0. -/
theorem observationIndependentOfStaleStaging : Obligations.ObservationIndependentOfStaleStaging := by
  refine ⟨fun es s u t h hs => ?_, fun q c m p => ?_⟩
  · obtain ⟨v, hv, hsame⟩ := h.runEvents_next hs
    exact ⟨v, hv, hsame.observe_eq⟩
  · exact { SameButDeadStaging.refl State.reset with staging := by simp [stagingAgree, State.reset] }

end Sys2Proof
end

section
/-! SUPPORT. The queue as seen by a step (R8, R60, R62, 20_memory.md): a step reads the head alone, so the rest of the
queue may be anything; the arrival of a symbol, the clocked binding and the working off of the queue follow. -/

namespace Sys2Proof.Machine

/-! ## A meaning does not see the queue -/

section
variable {s t : State} (q : List Symbol)

theorem whenDecoded_withQueue {here : Bool} {f : State → State} (h : whenDecoded here (.next (f s)) = .next t)
    (hf : f { s with rxq := q } = { f s with rxq := q }) :
    whenDecoded here (.next (f { s with rxq := q })) = .next { t with rxq := q } := by
  obtain ⟨hd, ht⟩ := whenDecoded_next.mp h
  cases ht
  exact whenDecoded_next.mpr ⟨hd, congrArg _ hf⟩

theorem stageByte_withQueue (b : Byte) :
    ({ s with rxq := q } : State).stageByte b = { s.stageByte b with rxq := q } := by
  cases hf : fieldAt s.idx with
  | none => simp [State.stageByte, hf]
  | some f => cases f <;> simp [State.stageByte, hf] <;> rfl

theorem verdict_withQueue {k : Byte} (h : verdict k s = .next t) :
    verdict k { s with rxq := q } = .next { t with rxq := q } := by
  cases hc : s.cmpOk with
  | false =>
    cases (verdict_framingError hc).symm.trans h
    exact verdict_framingError (s := { s with rxq := q }) hc
  | true =>
    cases hs : s.sumOk k with
    | false =>
      cases (verdict_checksumError hc hs).symm.trans h
      exact verdict_checksumError (s := { s with rxq := q }) hc hs
    | true =>
      obtain ⟨hf, ht⟩ := accept_next ((verdict_accept hc hs).symm.trans h)
      subst ht
      exact (verdict_accept (s := { s with rxq := q }) hc hs).trans (accept_of_fits (s := { s with rxq := q }) hf)

theorem execBodybyte_withQueue {b : Byte} (h : execBodybyte b s = .next t) :
    execBodybyte b { s with rxq := q } = .next { t with rxq := q } := by
  obtain ⟨hb, -⟩ := execBodybyte_next h
  by_cases h8 : s.idx = 8
  · rw [execBodybyte_last b hb h8] at h
    exact (execBodybyte_last (s := { s with rxq := q }) b hb h8).trans (verdict_withQueue q h)
  · cases (execBodybyte_of_ne_eight b hb h8).symm.trans h
    rw [execBodybyte_of_ne_eight (s := { s with rxq := q }) b hb h8, stageByte_withQueue]
    rfl

/-- No meaning reads or writes the queue: the symbol was read before (R7, R62). -/
theorem exec_withQueue {i : Instr} (h : exec i s = .next t) :
    exec i { s with rxq := q } = .next { t with rxq := q } := by
  cases i with
  | eot => exact whenDecoded_withQueue q (f := fun s => (s.txWrite Config.ACK).goto .done 0) h rfl
  | block => exact whenDecoded_withQueue q (f := State.startBlock) h rfl
  | rxerr d => exact whenDecoded_withQueue q (f := fun s => s.goto .failed 0) h rfl
  | bodybyte b => exact execBodybyte_withQueue q h
  | ack =>
    cases h
    rfl
  | nak =>
    cases h
    rfl
  | _ => exact whenDecoded_withQueue q (f := id) h rfl

end

/-- The queue after an execution is the one before it. -/
theorem exec_rxq {i : Instr} {s t : State} (h : exec i s = .next t) : t.rxq = s.rxq := by
  have hsame : Host.Outcome.next (φ := Fault) (ρ := Refusal) t = .next { t with rxq := s.rxq } :=
    h.symm.trans (exec_withQueue s.rxq h)
  exact (congrArg State.rxq (Host.Outcome.next.inj hsame) :)

/-! ## A step sees the head of the queue -/

theorem State.running_or_terminal (s : State) :
    (s.st = .awaitingControl ∨ s.st = .readingBlockBody) ∨ (s.st = .done ∨ s.st = .failed) := by
  cases s.st <;> simp

/-- A running framer with a symbol at hand takes the same step whatever stands behind the head. -/
theorem step_withQueue_of_cons {s t : State} {x : Symbol} {xs : List Symbol} (ys : List Symbol) (ha : Active s)
    (hrun : s.st = .awaitingControl ∨ s.st = .readingBlockBody) (hs : s.rxq = x :: xs) (h : step s = .next t) :
    step { s with rxq := x :: ys } = .next { t with rxq := ys } := by
  have haq : Active { s with rxq := x :: ys } := ⟨ha.rst, ha.rdy, ha.seqOk⟩
  have hf : ({ s with rxq := x :: ys } : State).fetch = s.fetch := by
    rcases hrun with hst | hst <;> simp [State.fetch, State.context, hst, hs]
  rw [step_active ha] at h
  rw [step_active haq, hf]
  cases hfetch : s.fetch with
  | hold => exact absurd (by rw [stepLabel_active ha, hfetch]) (stepLabel_of_cons ha hrun hs)
  | instr i =>
    rw [hfetch] at h
    exact exec_withQueue ys h
  | noRow =>
    rw [hfetch] at h
    cases h

/-- With another queue that has the same head, if the framer is ready to read it, the step is the same on everything but
the queue, of which it takes the head or nothing. -/
theorem step_withQueue {s t : State} {q : List Symbol} (h : step s = .next t)
    (hq : s.rxReady = true → q.head? = s.rxq.head?) :
    step { s with rxq := q } =
      .next { t with rxq := if s.rxReady = true ∧ s.rxValid = true then q.tail else q } := by
  by_cases hrst : s.rst = true
  · cases (step_of_rst hrst).symm.trans h
    rw [step_of_rst (s := { s with rxq := q }) hrst, State.rxReady_of_rst hrst]
    rfl
  have hrst : s.rst = false := by simpa using hrst
  have hok := seqOk_of_step hrst h
  by_cases hr : s.rdy = true
  · cases (step_of_rdy hrst hok hr).symm.trans h
    rw [step_of_rdy (s := { s with rxq := q }) hrst hok hr, State.rxReady_of_rdy hr]
    rfl
  have ha : Active s := ⟨hrst, by simpa using hr, hok⟩
  rcases State.running_or_terminal s with hrun | hterm
  case inr =>
    obtain ⟨-, hhold⟩ := step_terminal hrst hok hterm
    obtain ⟨-, hholdq⟩ := step_terminal (s := { s with rxq := q }) hrst hok hterm
    cases hhold.symm.trans h
    rw [hholdq, State.rxReady_of_terminal hterm]
    rfl
  have hready : s.rxReady = true := (State.rxReady_iff s).mpr ⟨hrst, ha.rdy, hrun⟩
  have hhead := hq hready
  cases hs : s.rxq with
  | nil =>
    obtain rfl : q = [] := by simpa [hs] using hhead
    obtain ⟨hhold, -⟩ := step_of_empty ha hs
    obtain ⟨hholdq, -⟩ := step_of_empty (s := { s with rxq := [] }) ⟨ha.rst, ha.rdy, ha.seqOk⟩ rfl
    cases hhold.symm.trans h
    rw [hholdq]
    simp
  | cons x xs =>
    obtain ⟨ys, rfl⟩ : ∃ ys, q = x :: ys := List.head?_eq_some_iff.mp (by rw [hhead, hs]; rfl)
    have hvalid : s.rxValid = true := (State.rxValid_iff s).mpr (by simp [hs])
    rw [if_pos ⟨hready, hvalid⟩]
    exact step_withQueue_of_cons ys ha hrun hs h

/-! ## Arrival -/

theorem rxValid_of_not_waiting {s : State} (hw : ¬ Waiting s) (hr : s.rxReady = true) : s.rxq ≠ [] := by
  obtain ⟨hrst, hrdy, hrun⟩ := (State.rxReady_iff s).mp hr
  exact fun hq => hw ⟨hrst, hrdy, (State.outcome_running_iff s).mpr hrun, hq⟩

/-- What a step leaves of the queue, the reset edge among the steps (R62, R262). -/
theorem step_rxq {s t : State} (h : step s = .next t) :
    t.rxq = if s.rxReady = true ∧ s.rxValid = true then s.rxq.tail else s.rxq := by
  cases hrst : s.rst with
  | true =>
    cases (step_of_rst hrst).symm.trans h
    simp [State.rxReady_of_rst hrst]
  | false =>
    obtain ⟨hno, hq, -⟩ | ⟨hyes, hq, -⟩ := step_handshake hrst h
    · rw [if_neg hno, hq]
    · rw [if_pos hyes, hq]

/-- Settles O49: a symbol joins behind the head, if one is about to be read, and the step leaves it there. -/
theorem arrivalCommutesWithStep : Obligations.ArrivalCommutesWithStep := by
  intro s t x hw h
  have hhead : s.rxReady = true → (s.rxq ++ [x]).head? = s.rxq.head? := fun hr =>
    List.head?_append_of_ne_nil _ (rxValid_of_not_waiting hw hr)
  refine (step_withQueue h hhead).trans (congrArg Host.Outcome.next ?_)
  rw [State.arrive, step_rxq h]
  split
  case isTrue hshake => rw [List.tail_append_of_ne_nil ((State.rxValid_iff s).mp hshake.2)]
  case isFalse => rfl

/-! ## The clocked binding -/

/-- A symbol is its tag and its data (R61). -/
theorem symbol_of_err_data (x : Symbol) : (if x.err then errSymbol x.data else byteSymbol x.data) = x := by
  cases he : x.err with
  | true => exact (eq_errSymbol_of_err x he).symm
  | false => exact (eq_byteSymbol_of_err x he).symm

/-- The pins show the head of the queue (R80). -/
theorem symbol_pinsOf (a : Nat) (s : State) : (pinsOf a s).symbol = s.rxq.headD 0 :=
  symbol_of_err_data _

theorem queue_pinsOf (a : Nat) (s : State) :
    (if (pinsOf a s).rxValid then [(pinsOf a s).symbol] else []) = s.rxq.take 1 := by
  rw [symbol_pinsOf]
  cases hq : s.rxq <;> simp [pinsOf, State.rxValid, hq]

theorem Label.length_response_le_one (l : Label) : l.response.length ≤ 1 := by
  cases l <;> decide

/-- A step emits at most one byte, the rest of `tx` being what it was (R66, R190). -/
theorem step_tx_emitted {s t : State} (hrst : s.rst = false) (h : step s = .next t) :
    t.tx = s.tx ++ emitted s t ∧ (emitted s t).length ≤ 1 := by
  have hem : emitted s t = ((stepLabel s).map Label.response).getD [] := by simp [emitted, step_tx hrst h]
  rw [hem]
  refine ⟨step_tx hrst h, ?_⟩
  cases stepLabel s with
  | none => exact Nat.zero_le 1
  | some l => exact l.length_response_le_one

theorem head?_eq_some_iff_of_length_le_one {α : Type} {l : List α} (hl : l.length ≤ 1) (a : α) :
    l.head? = some a ↔ l = [a] := by
  match l, hl with
  | [], _ => simp
  | [b], _ => simp

/-- Settles O51: the pins are the head of the queue, which is all a step sees; a step emits at most one byte. -/
theorem clockEdgeIsOneStep : Obligations.ClockEdgeIsOneStep := by
  intro a draw s t h
  refine ⟨?edge, fun hrst b => ?emits, fun hrst => ?resetEdge⟩
  case edge =>
    have hq : s.rxReady = true → (s.rxq.take 1).head? = s.rxq.head? := fun _ => by simp [List.head?_take]
    have htail : (s.rxq.take 1).tail = [] := by cases s.rxq <;> rfl
    have hedge := step_withQueue h hq
    rw [htail] at hedge
    rw [clockEdge, queue_pinsOf]
    exact hedge
  case emits =>
    obtain ⟨htx, hlen⟩ := step_tx_emitted hrst h
    calc (portsOut draw (pinsOf a s) s t).txData = some b ↔ emitted s t = [b] :=
          head?_eq_some_iff_of_length_le_one hlen b
      _ ↔ t.tx = s.tx ++ [b] := by
          rw [← List.append_cancel_left_eq s.tx, ← htx]
  case resetEdge =>
    cases (step_of_rst hrst).symm.trans h
    simp [portsOut, emitted]

/-! ## Working off the queue -/

/-- With an unbounded Message every reachable encoding has a next state (R72). -/
theorem exists_step_of_unbounded {s : State} (hok : s.seqOk = true) (hcap : s.msgCap = none) :
    ∃ t, step s = .next t := by
  obtain hnext | ⟨-, -, hf⟩ := step_total (.inr hok)
  · exact hnext
  · obtain ⟨cap, hsome, -⟩ := (State.fits_eq_false_iff s _).mp hf
    simp [hcap] at hsome

/-- One step works off one symbol of a running session's queue (R62). -/
theorem step_works_off {s t : State} {n : Nat} (hrst : s.rst = false) (hr : s.rdy = false)
    (hn : s.rxq.length ≤ n + 1 ∨ s.outcome ≠ .running) (h : step s = .next t) :
    t.rxq.length ≤ n ∨ t.outcome ≠ .running := by
  by_cases hrun : s.outcome = .running
  · have hready : s.rxReady = true := (State.rxReady_iff s).mpr ⟨hrst, hr, (State.outcome_running_iff s).mp hrun⟩
    have hlen := hn.resolve_right fun hne => hne hrun
    left
    rw [step_rxq h]
    split
    · rw [List.length_tail]
      omega
    case isFalse hno =>
      have hempty : s.rxq = [] := by
        by_contra hne
        exact hno ⟨hready, (State.rxValid_iff s).mpr hne⟩
      simp [hempty]
  · have hterm := s.running_or_terminal.resolve_left (mt (State.outcome_running_iff s).mpr hrun)
    obtain ⟨-, hhold⟩ := step_terminal hrst (seqOk_of_step hrst h) hterm
    cases hhold.symm.trans h
    exact .inr hrun

theorem runSteps_works_off {n : Nat} {s : State} (ha : Active s) (hcap : s.msgCap = none)
    (hn : s.rxq.length ≤ n ∨ s.outcome ≠ .running) :
    ∃ t, runSteps n s = .next t ∧ t.rdy = false ∧ (t.rxq = [] ∨ t.outcome ≠ .running) := by
  induction n generalizing s with
  | zero => exact ⟨s, rfl, ha.rdy, hn.imp_left fun h => by simpa using h⟩
  | succ n ih =>
    obtain ⟨u, hu⟩ := exists_step_of_unbounded ha.seqOk hcap
    rw [runSteps_succ_of_step hu]
    exact ih ⟨(step_rst hu).trans ha.rst, step_rdy ha.rst hu, step_seqOk hu⟩ ((step_msgCap hu).trans hcap)
      (step_works_off ha.rst ha.rdy hn hu)

/-- Settles O50: `Ready`, when owed, takes one answer and each symbol one. -/
theorem queueIsWorkedOff : Obligations.QueueIsWorkedOff := by
  refine ⟨fun s hrst hok hrun hwork => ?enabled, fun s hrst hok hcap => ?workedOff⟩
  case enabled =>
    cases hr : s.rdy with
    | true => simp [(stepLabel_ready_iff hrst hok).mpr hr]
    | false =>
      obtain ⟨x, xs, hq⟩ := List.exists_cons_of_ne_nil (hwork.resolve_left (by simp [hr]))
      exact stepLabel_of_cons ⟨hrst, hr, hok⟩ ((State.outcome_running_iff s).mp hrun) hq
  case workedOff =>
    cases hr : s.rdy with
    | true =>
      have hready := step_of_rdy hrst hok hr
      rw [runSteps_succ_of_step hready]
      exact runSteps_works_off ⟨hrst, rfl, step_seqOk hready⟩ hcap (.inl (Nat.le_refl _))
    | false => exact runSteps_works_off ⟨hrst, hr, hok⟩ hcap (.inl (Nat.le_succ _))

end Sys2Proof.Machine
end

section
/-! SUPPORT. Streams (R106, R118, R150, R180): runs of noise, a block cut short by `Err`, the nine steps of a block seen
from outside, and the units into which a queue is cut. -/

namespace Sys2Proof.Machine

/-! ## Runs of noise -/

/-- As many noise bytes as stand at the head of the queue are consumed one by one (R180 (a)). -/
theorem runSteps_noise {bs : List Byte} {rest : List Symbol} {s : State} (hrst : s.rst = false)
    (hc : s.atControl = true) (hbs : ∀ b ∈ bs, b ≠ 0x01 ∧ b ≠ 0x04) (hq : s.rxq = bs.map byteSymbol ++ rest) :
    runSteps bs.length s = .next { s with rxq := rest, rxn := s.rxn + bs.length } := by
  induction bs generalizing s with
  | nil =>
    obtain rfl : s.rxq = rest := hq
    rfl
  | cons b bs ih =>
    obtain ⟨⟨h1, h4⟩, hrest⟩ := List.forall_mem_cons.mp hbs
    rw [List.length_cons, runSteps_succ_of_step (step_noise hrst hc h1 h4 hq), ih (s := s.popRx) hrst hc hrest
      (by simp [hq])]
    simp [State.popRx, Nat.add_assoc, Nat.add_comm 1]

/-- Settles O52: `runSteps_noise` from control. -/
theorem noiseRunsAreDiscarded : Obligations.NoiseRunsAreDiscarded := fun _ _ s hrst hr hst hi hbs hq =>
  runSteps_noise hrst ((State.atControl_iff s).mpr ⟨hr, hst, hi⟩) hbs hq

/-! ## The body bytes before the verdict -/

section
variable (bs : List Byte) (s : State)

@[simp] theorem State.takeByte_msg (b : Byte) : (s.takeByte b).msg = s.msg := by simp [State.takeByte]
@[simp] theorem State.takeByte_tx (b : Byte) : (s.takeByte b).tx = s.tx := by simp [State.takeByte]
@[simp] theorem State.takeByte_rxn (b : Byte) : (s.takeByte b).rxn = s.rxn + 1 := by simp [State.takeByte]
@[simp] theorem State.takeByte_rxq (b : Byte) : (s.takeByte b).rxq = s.rxq.tail := by simp [State.takeByte]
@[simp] theorem State.takeByte_rst (b : Byte) : (s.takeByte b).rst = s.rst := by simp [State.takeByte]
@[simp] theorem State.takeByte_rdy (b : Byte) : (s.takeByte b).rdy = s.rdy := by simp [State.takeByte]
@[simp] theorem State.takeByte_idx (b : Byte) : (s.takeByte b).idx = s.idx + 1 := by simp [State.takeByte]

@[simp] theorem State.takeBytes_msg : (s.takeBytes bs).msg = s.msg := by
  induction bs generalizing s with
  | nil => rfl
  | cons b bs ih => simp [State.takeBytes, ih]

@[simp] theorem State.takeBytes_tx : (s.takeBytes bs).tx = s.tx := by
  induction bs generalizing s with
  | nil => rfl
  | cons b bs ih => simp [State.takeBytes, ih]

@[simp] theorem State.takeBytes_rdy : (s.takeBytes bs).rdy = s.rdy := by
  induction bs generalizing s with
  | nil => rfl
  | cons b bs ih => simp [State.takeBytes, ih]

@[simp] theorem State.takeBytes_rst : (s.takeBytes bs).rst = s.rst := by
  induction bs generalizing s with
  | nil => rfl
  | cons b bs ih => simp [State.takeBytes, ih]

@[simp] theorem State.takeBytes_rxn : (s.takeBytes bs).rxn = s.rxn + bs.length := by
  induction bs generalizing s with
  | nil => rfl
  | cons b bs ih => simp [State.takeBytes, ih, Nat.add_assoc, Nat.add_comm 1]

@[simp] theorem State.takeBytes_rxq : (s.takeBytes bs).rxq = s.rxq.drop bs.length := by
  induction bs generalizing s with
  | nil => rfl
  | cons b bs ih => simp [State.takeBytes, ih]

end

theorem State.takeBytes_inBody {bs : List Byte} {s : State} (hb : s.inBody = true)
    (hlen : s.idx.toNat + bs.length ≤ 8) : (s.takeBytes bs).inBody = true := by
  induction bs generalizing s with
  | nil => exact hb
  | cons b bs ih =>
    rw [List.length_cons] at hlen
    have h8 : s.idx ≠ 8 := fun h => by simp [h] at hlen
    have hnext : (s.takeByte b).idx.toNat = s.idx.toNat + 1 := by
      rw [State.takeByte_idx, BitVec.toNat_add]
      simp
      omega
    exact ih (State.takeByte_inBody b hb h8) (by omega)

theorem State.startBlock_inBody {s : State} (hc : s.atControl = true) : s.popRx.startBlock.inBody = true := by
  obtain ⟨hr, -, -⟩ := (State.atControl_iff s).mp hc
  simp [State.inBody_iff, hr]

/-- The state after a start marker and at most seven body bytes: within the block, nothing emitted or appended. -/
theorem State.takeBytes_startBlock_inBody {bs : List Byte} {s : State} (hc : s.atControl = true)
    (h7 : bs.length ≤ 7) : (s.popRx.startBlock.takeBytes bs).inBody = true :=
  State.takeBytes_inBody (State.startBlock_inBody hc) (by simp; omega)

/-- A start marker and at most seven body bytes are taken one by one (R140 to R143). -/
theorem runSteps_soh_takeBytes {bs : List Byte} {rest : List Symbol} {s : State} (hrst : s.rst = false)
    (hc : s.atControl = true) (h7 : bs.length ≤ 7)
    (hq : s.rxq = byteSymbol Config.SOH :: (bs.map byteSymbol ++ rest)) :
    runSteps (bs.length + 1) s = .next (s.popRx.startBlock.takeBytes bs) := by
  rw [runSteps_succ_of_step (step_soh hrst hc hq)]
  exact runSteps_takeBytes (s := s.popRx.startBlock) (rest := rest) hrst (State.startBlock_inBody hc)
    (by simp; omega) (by simp [hq])

/-! ## A block cut short -/

/-- A block that meets `Err` ends there, in `Failed` (R222). -/
theorem runSteps_truncated {bs : List Byte} {e : Symbol} {rest : List Symbol} {s : State} (hrst : s.rst = false)
    (hc : s.atControl = true) (h7 : bs.length ≤ 7) (he : e.err = true)
    (hq : s.rxq = byteSymbol Config.SOH :: (bs.map byteSymbol ++ e :: rest)) :
    runSteps (bs.length + 2) s = .next ((s.popRx.startBlock.takeBytes bs).popRx.goto .failed 0) := by
  have hb := State.takeBytes_startBlock_inBody hc h7
  have ha : Active (s.popRx.startBlock.takeBytes bs) := Active.of_inBody (by simp [hrst]) hb
  obtain ⟨herr, -⟩ := step_err (xs := rest) ha (.inr (State.st_of_inBody hb)) (by simp [hq]) he
  calc runSteps (bs.length + 2) s = step (s.popRx.startBlock.takeBytes bs) :=
        (runSteps_add (runSteps_soh_takeBytes hrst hc h7 hq) 1).trans (runSteps_one _)
    _ = _ := herr

/-- Settles O55: `runSteps_truncated`, whose state no body byte has shown anything of. -/
theorem truncatedBlockFailsSilently : Obligations.TruncatedBlockFailsSilently := by
  intro bs d rest s hrst hr hst hi h7 hq
  have hc : s.atControl = true := (State.atControl_iff s).mpr ⟨hr, hst, hi⟩
  refine ⟨_, runSteps_truncated hrst hc h7 (errSymbol_err d) hq, rfl, rfl, by simp, by simp, ?_, by simp [hq], rfl⟩
  simp
  omega

/-! ## The nine steps of a block -/

/-- A block that fails either check is answered by NAK and leaves the Message as it is, whatever the capacity (R149). -/
theorem blockWhole_of_invalid {f : Frame} {s : State} (hv : frameValid f = false) :
    blockWhole f s =
      .next ((((s.stageFrame f).consume Config.blockLen).goto .awaitingControl 0).txWrite Config.NAK) := by
  cases hc : frameComplementOk f with
  | false => simp [blockWhole, hc]
  | true =>
    have hs : frameSumOk f = false := by simpa [frameValid, hc] using hv
    simp [blockWhole, hc, hs]

/-- The net effect of a block on an unbounded Message: what is emitted and what the Message becomes (R150). -/
theorem blockWhole_unbounded {f : Frame} {s : State} (hcap : s.msgCap = none) :
    ∃ t, blockWhole f s = .next t ∧ t.st = .awaitingControl ∧ t.idx = 0 ∧ t.rdy = s.rdy ∧ t.rxn = s.rxn + 9 ∧
      t.rxq = s.rxq.drop 9 ∧
      (t.tx, t.msg.bytes) =
        if frameValid f then (s.tx ++ [Config.ACK], s.msg.bytes ++ stripPadding f.payload)
        else (s.tx ++ [Config.NAK], s.msg.bytes) := by
  cases hv : frameValid f with
  | false => exact ⟨_, blockWhole_of_invalid hv, rfl, rfl, rfl, rfl, rfl, rfl⟩
  | true => exact ⟨_, blockWhole_of_valid hv hcap, rfl, rfl, rfl, rfl, rfl, by simp⟩

/-- The two checks one after the other (R150) are the one of validity. -/
theorem ite_checks {α : Type} (f : Frame) (accepted rejected : α) :
    (if frameComplementOk f = false then rejected else if frameSumOk f = false then rejected else accepted) =
      if frameValid f then accepted else rejected := by
  unfold frameValid
  cases frameComplementOk f <;> cases frameSumOk f <;> rfl

theorem frameComplementOk_eq_false_iff (f : Frame) : frameComplementOk f = false ↔ f.c.toNat ≠ 255 - f.n.toNat := by
  rw [← Bool.not_eq_true, frameComplementOk, complementOk_iff_toNat]

theorem frameSumOk_eq_false_iff (f : Frame) :
    frameSumOk f = false ↔
      f.k.toNat ≠ (f.p0.toNat + f.p1.toNat + f.p2.toNat + f.p3.toNat + f.p4.toNat) % 256 := by
  rw [← Bool.not_eq_true, frameSumOk, beq_iff_eq, ← payloadSum_toNat, ne_eq, BitVec.toNat_inj]

/-- Before the ninth step nothing of a block shows but `rxn` (R150). -/
theorem runSteps_block_before_last {f : Frame} {rest : List Symbol} {s u : State} {j : Nat} (hrst : s.rst = false)
    (hc : s.atControl = true) (hq : s.rxq = f.symbols ++ rest) (hj : j < 9) (hu : runSteps j s = .next u) :
    u.tx = s.tx ∧ u.msg = s.msg ∧ u.outcome = .running ∧ u.rxn = s.rxn + j := by
  cases j with
  | zero =>
    cases hu
    obtain ⟨-, hst, -⟩ := (State.atControl_iff s).mp hc
    exact ⟨rfl, rfl, (State.outcome_running_iff s).mpr (.inl hst), rfl⟩
  | succ j =>
    have hlen : (f.staged.take j).length = j := by simp [Frame.staged, Frame.payload]; omega
    have hsplit : s.rxq = byteSymbol Config.SOH :: ((f.staged.take j).map byteSymbol ++
        ((f.staged.drop j).map byteSymbol ++ byteSymbol f.k :: rest)) := by
      rw [hq, Frame.symbols_append, ← List.append_assoc, ← List.map_append, List.take_append_drop]
    have hrun := runSteps_soh_takeBytes hrst hc (by omega) hsplit
    rw [hlen, hu] at hrun
    cases hrun
    have hb := State.takeBytes_startBlock_inBody (bs := f.staged.take j) hc (by omega)
    refine ⟨by simp, by simp, (State.outcome_running_iff _).mpr (.inr (State.st_of_inBody hb)), ?_⟩
    rw [State.takeBytes_rxn, hlen]
    simp
    omega

theorem Frame.drop_nine_symbols (f : Frame) (rest : List Symbol) : (f.symbols ++ rest).drop 9 = rest := rfl

/-- Settles O53: nine steps are `blockWhole`, fewer are the start marker and body bytes. -/
theorem nineStepsAreOneBlock : Obligations.NineStepsAreOneBlock := by
  intro f rest s hrst hr hst hi hcap hq
  have hc : s.atControl = true := (State.atControl_iff s).mpr ⟨hr, hst, hi⟩
  refine ⟨?_, fun j u hj hu => runSteps_block_before_last hrst hc hq hj hu⟩
  obtain ⟨t, ht, htst, hidx, htr, hrxn, hrxq, hout⟩ := blockWhole_unbounded (f := f) hcap
  rw [hq, Frame.drop_nine_symbols] at hrxq
  rw [← ite_checks] at hout
  simp only [frameComplementOk_eq_false_iff, frameSumOk_eq_false_iff] at hout
  exact ⟨t, (runSteps_nine_eq_blockWhole hrst hc hq).trans ht, htst, hidx, htr.trans hr, hrxn, hrxq, hout⟩

/-! ## Rejected blocks -/

theorem frameValid_iff (f : Frame) :
    frameValid f = true ↔ f.c = 255 - f.n ∧ f.k = payloadSum f.p0 f.p1 f.p2 f.p3 f.p4 := by
  simp [frameValid, frameComplementOk, complementOk, frameSumOk]

/-- Only one checksum byte and one complement make a frame valid (R145, R146). -/
theorem frameValid_corrupted {f g : Frame} (hf : frameValid f = true)
    (hg : (∃ k, k ≠ f.k ∧ g = { f with k := k }) ∨ ∃ c, c ≠ f.c ∧ g = { f with c := c }) :
    frameValid g = false := by
  obtain ⟨hc, hk⟩ := (frameValid_iff f).mp hf
  rw [← Bool.not_eq_true, frameValid_iff]
  obtain ⟨k, hne, rfl⟩ | ⟨c, hne, rfl⟩ := hg
  · exact fun ⟨_, hk'⟩ => hne (hk'.trans hk.symm)
  · exact fun ⟨hc', _⟩ => hne (hc'.trans hc.symm)

/-- Settles O56: the corrupted frame is invalid, and its nine steps are `blockWhole`. -/
theorem corruptedBlockIsRejected : Obligations.CorruptedBlockIsRejected := by
  intro f g rest s hf hg hrst hr hst hi hq
  have hc : s.atControl = true := (State.atControl_iff s).mpr ⟨hr, hst, hi⟩
  exact ⟨_, (runSteps_nine_eq_blockWhole hrst hc hq).trans (blockWhole_of_invalid (frameValid_corrupted hf hg)),
    rfl, rfl, rfl⟩

/-! ## The sequence byte -/

/-- Settles O57: both frames are valid, and the whole effect of a valid block shows its payload alone. -/
theorem sequenceNumberIsNotChecked : Obligations.SequenceNumberIsNotChecked := by
  intro f n rest s t hf hrst hr hst hi hcap ht
  have hg : frameValid ({ f with n := n, c := 255 - n } : Frame) = true :=
    (frameValid_iff _).mpr ⟨rfl, ((frameValid_iff f).mp hf).2⟩
  have hrun := fun (g : Frame) (hg : frameValid g = true) =>
    (runSteps_nine_eq_blockWhole (s := { s with rxq := g.symbols ++ rest }) hrst
      ((State.atControl_iff s).mpr ⟨hr, hst, hi⟩) rfl).trans (blockWhole_of_valid hg hcap)
  cases (hrun f hf).symm.trans ht
  exact ⟨_, hrun _ hg, rfl, rfl, rfl⟩

/-! ## The unit machine -/

/-- What is cut from a queue: one symbol and its instruction, a block, or a block cut short (R106). -/
theorem cutUnit_cases {xs rest : List Symbol} {u : StreamUnit} (h : cutUnit xs = some (u, rest)) :
    (∃ x i, u = .single i ∧ decodeRx .control x = .ok i ∧ xs = x :: rest) ∨
    (∃ f : Frame, u = .block f ∧ xs = f.symbols ++ rest) ∨
    (∃ (bs : List Byte) (e : Symbol), u = .truncated (bs.length + 1) ∧ bs.length ≤ 7 ∧ e.err = true ∧
      xs = byteSymbol Config.SOH :: (bs.map byteSymbol ++ e :: rest)) := by
  cases xs with
  | nil => cases h
  | cons x xs =>
    by_cases hx : x = 0x001
    · subst hx
      obtain ⟨f, hu, rfl⟩ | ⟨bs, e, hu, h7, he, rfl⟩ := cutUnit_soh_cases h
      · exact .inr (.inl ⟨f, hu, rfl⟩)
      · exact .inr (.inr ⟨bs, e, hu, h7, he, rfl⟩)
    · obtain ⟨i, hd⟩ := decodeRx_control_total x
      have hi : i ≠ .block := fun heq => hx ((decodeRx_control_block_iff x).mp (heq ▸ hd))
      have hcut : cutUnit (x :: xs) = some (.single i, xs) := by simp [cutUnit, hd]
      cases hcut.symm.trans h
      exact .inl ⟨x, i, rfl, hd, rfl⟩

theorem blockWhole_frame {f : Frame} {s t : State} (h : blockWhole f s = .next t) : t.rxq = s.rxq.drop 9 := by
  simp only [blockWhole] at h
  split at h
  · cases h; rfl
  split at h
  · cases h; rfl
  split at h
  · cases h; rfl
  · cases h

/-- The byte machine's answer agrees with the unit machine's: the same refusal, or states alike but for staging
registers. -/
def UnitAgree (rest : List Symbol) (r q : Result) : Prop :=
  (∀ e, r = .refused e ↔ q = .refused e) ∧
  ∀ t, q = .next t → ∃ v, r = .next v ∧ v.observe = t.observe ∧ v.st = t.st ∧ v.idx = t.idx ∧ v.rdy = t.rdy ∧
    v.rxq = rest ∧ t.rxq = rest

theorem UnitAgree.of_eq {rest : List Symbol} {r q : Result} (h : r = q) (hq : ∀ t, q = .next t → t.rxq = rest) :
    UnitAgree rest r q :=
  ⟨fun _ => h ▸ Iff.rfl, fun t ht => ⟨t, h.trans ht, rfl, rfl, rfl, rfl, hq t ht, hq t ht⟩⟩

theorem State.consume_one (s : State) : s.consume 1 = s.popRx := by
  simp [State.consume, State.popRx]

theorem unitAgree_single {s : State} {x : Symbol} {i : Instr} {rest : List Symbol} (hrst : s.rst = false)
    (hc : s.atControl = true) (hd : decodeRx .control x = .ok i) (hq : s.rxq = x :: rest) :
    UnitAgree rest (runSteps 1 s) (runUnit (.single i) s) := by
  obtain ⟨-, hst, -⟩ := (State.atControl_iff s).mp hc
  refine UnitAgree.of_eq ?_ fun t ht => ?_
  · rw [runSteps_one, step_active (Active.of_atControl hrst hc), fetch_control hst hq hd, runUnit, State.consume_one]
  · rw [exec_rxq ht]
    simp [hq]

theorem unitAgree_block {s : State} {f : Frame} {rest : List Symbol} (hrst : s.rst = false)
    (hc : s.atControl = true) (hq : s.rxq = f.symbols ++ rest) :
    UnitAgree rest (runSteps 9 s) (runUnit (.block f) s) :=
  UnitAgree.of_eq (runSteps_nine_eq_blockWhole hrst hc hq) fun t ht => by
    rw [blockWhole_frame ht, hq, Frame.drop_nine_symbols]

theorem unitAgree_truncated {s : State} {bs : List Byte} {e : Symbol} {rest : List Symbol} (hrst : s.rst = false)
    (hc : s.atControl = true) (h7 : bs.length ≤ 7) (he : e.err = true)
    (hq : s.rxq = byteSymbol Config.SOH :: (bs.map byteSymbol ++ e :: rest)) :
    UnitAgree rest (runSteps (bs.length + 2) s) (runUnit (.truncated (bs.length + 1)) s) := by
  have hrun := runSteps_truncated hrst hc h7 he hq
  refine ⟨fun _ => by simp [hrun, runUnit], fun t ht => ⟨_, hrun, ?_⟩⟩
  cases ht
  refine ⟨?observe, rfl, rfl, by simp [raise], by simp [hq], by simp [hq, raise, List.drop_append]⟩
  simp [State.observe, State.outcome, raise]
  omega

/-- Settles O54: one lemma for each form of unit. -/
theorem byteMachineRefinesUnitMachine : Obligations.ByteMachineRefinesUnitMachine := by
  intro s u rest hrst hr hst hi hcut
  have hc : s.atControl = true := (State.atControl_iff s).mpr ⟨hr, hst, hi⟩
  obtain ⟨x, i, rfl, hd, hq⟩ | ⟨f, rfl, hq⟩ | ⟨bs, e, rfl, h7, he, hq⟩ := cutUnit_cases hcut
  · exact unitAgree_single hrst hc hd hq
  · exact unitAgree_block hrst hc hq
  · exact unitAgree_truncated hrst hc h7 he hq

end Sys2Proof.Machine
end

section
/-! SUPPORT. `SEND` (R116, R118, 30_encoding.md; S2, 95_test_vectors.md): a text's blocks are valid, their payloads less the
padding are the text, and valid blocks in a row are appended in order. -/

namespace Sys2Proof.Machine

/-! ## Valid blocks in a row -/

theorem runSteps_validBlocks {fs : List Frame} {rest : List Symbol} {s : State}
    (hv : ∀ f ∈ fs, frameValid f = true) (hrst : s.rst = false) (hc : s.atControl = true) (hcap : s.msgCap = none)
    (hq : s.rxq = fs.flatMap Frame.symbols ++ rest) :
    ∃ t, runSteps (fs.flatMap Frame.symbols).length s = .next t ∧ t.rst = false ∧ t.atControl = true ∧ t.rxq = rest ∧
      t.tx = s.tx ++ List.replicate fs.length Config.ACK ∧
      t.msg.bytes = s.msg.bytes ++ fs.flatMap (fun f => stripPadding f.payload) := by
  induction fs generalizing s with
  | nil => exact ⟨s, rfl, hrst, hc, hq, by simp, by simp⟩
  | cons f fs ih =>
    obtain ⟨hf, hfs⟩ := List.forall_mem_cons.mp hv
    rw [List.flatMap_cons, List.append_assoc] at hq
    obtain ⟨u, hu, hurst, huc, hucap, huq, hutx, humsg⟩ := runSteps_validBlock hf hrst hc hcap hq
    obtain ⟨t, ht, htrst, htc, htq, httx, htmsg⟩ := ih hfs hurst huc hucap huq
    refine ⟨t, ?_, htrst, htc, htq, by simp [httx, hutx, List.replicate_succ], by simp [htmsg, humsg]⟩
    rw [List.flatMap_cons, List.length_append]
    exact (runSteps_add hu _).trans ht

/-! ## The blocks of a text -/

theorem frameValid_blkFrame (n p0 p1 p2 p3 p4 : Byte) : frameValid (blkFrame n p0 p1 p2 p3 p4) = true :=
  (frameValid_iff _).mpr ⟨rfl, rfl⟩

/-- A list of at most five bytes, filled up to five with one byte, is the list with that byte behind it. -/
theorem getD_five_eq_append {t : List Byte} (h5 : t.length ≤ 5) (d : Byte) :
    [t.getD 0 d, t.getD 1 d, t.getD 2 d, t.getD 3 d, t.getD 4 d] = t ++ List.replicate (5 - t.length) d := by
  match t, h5 with
  | [], _ => rfl
  | [_], _ => rfl
  | [_, _], _ => rfl
  | [_, _, _], _ => rfl
  | [_, _, _, _], _ => rfl
  | [_, _, _, _, _], _ => rfl

/-- What the filter keeps of a padded block is its text (R116, R147). -/
theorem stripPadding_blkText (n : Byte) {t : List Byte} (h5 : t.length ≤ 5) (ht : ∀ b ∈ t, b ≠ Config.ETX) :
    stripPadding (blkText n t).payload = t := by
  have hpay : (blkText n t).payload = t ++ List.replicate (5 - t.length) Config.ETX := getD_five_eq_append h5 _
  have hkeep : t.filter (fun x => x != Config.ETX) = t := List.filter_eq_self.mpr fun b hb => by simpa using ht b hb
  rw [hpay, stripPadding, List.filter_append, hkeep, List.filter_replicate]
  simp

/-- With fuel enough for the text, its blocks are valid, one for each started five bytes, and carry the text. -/
theorem sendFrames_spec {fuel : Nat} {n : Byte} {t : List Byte} (hlen : t.length ≤ fuel)
    (ht : ∀ b ∈ t, b ≠ Config.ETX) :
    (∀ f ∈ sendFrames fuel n t, frameValid f = true) ∧
      (sendFrames fuel n t).length = (t.length + 4) / 5 ∧
      (sendFrames fuel n t).flatMap (fun f => stripPadding f.payload) = t := by
  induction fuel generalizing n t with
  | zero =>
    obtain rfl : t = [] := by simpa using hlen
    simp [sendFrames]
  | succ fuel ih =>
    cases hempty : t.isEmpty with
    | true =>
      obtain rfl : t = [] := by simpa using hempty
      simp [sendFrames]
    | false =>
      have hpos : 0 < t.length := List.length_pos_iff.mpr (by simpa using hempty)
      have hcons : sendFrames (fuel + 1) n t =
          blkText n (t.take 5) :: sendFrames fuel (n + 1) (t.drop 5) := by
        simp [sendFrames, hempty]
      obtain ⟨hv, hcount, hbytes⟩ := ih (n := n + 1) (t := t.drop 5) (by rw [List.length_drop]; omega)
        (fun b hb => ht b (List.mem_of_mem_drop hb))
      have hstrip := stripPadding_blkText n (t := t.take 5) (List.length_take_le 5 t)
        (fun b hb => ht b (List.mem_of_mem_take hb))
      rw [hcons]
      refine ⟨List.forall_mem_cons.mpr ⟨frameValid_blkFrame .., hv⟩, ?_, ?_⟩
      · rw [List.length_cons, hcount, List.length_drop]
        omega
      · rw [List.flatMap_cons, hstrip, hbytes, List.take_append_drop]

/-- The symbols of `SEND` consumed from control (S2). -/
theorem runSteps_send {text : List Byte} {n0 : Byte} {rest : List Symbol} {s : State}
    (htext : ∀ b ∈ text, b ≠ Config.ETX) (hrst : s.rst = false) (hc : s.atControl = true) (hcap : s.msgCap = none)
    (hq : s.rxq = send n0 text ++ rest) :
    ∃ t, runSteps (send n0 text).length s = .next t ∧ t.rst = false ∧ t.atControl = true ∧ t.rxq = rest ∧
      t.tx = s.tx ++ List.replicate ((text.length + 4) / 5) Config.ACK ∧ t.msg.bytes = s.msg.bytes ++ text := by
  obtain ⟨hv, hcount, hbytes⟩ := sendFrames_spec (n := n0) (Nat.le_refl text.length) htext
  obtain ⟨t, ht, htrst, htc, htq, httx, htmsg⟩ := runSteps_validBlocks hv hrst hc hcap hq
  exact ⟨t, ht, htrst, htc, htq, hcount ▸ httx, hbytes ▸ htmsg⟩

theorem step_eot {s : State} {xs : List Symbol} (hrst : s.rst = false) (hc : s.atControl = true)
    (hq : s.rxq = byteSymbol Config.EOT :: xs) :
    step s = .next ((s.popRx.txWrite Config.ACK).goto .done 0) := by
  obtain ⟨-, hst, -⟩ := (State.atControl_iff s).mp hc
  rw [step_active (Active.of_atControl hrst hc), fetch_control hst hq decodeRx_control_eot]
  exact execEot_of_atControl (s := s.popRx) hc

/-- A whole session: the readiness NAK, the blocks of a text, and EOT (S2). -/
theorem runSteps_session {text : List Byte} {n0 : Byte} {s : State} (htext : ∀ b ∈ text, b ≠ Config.ETX)
    (hrst : s.rst = false) (hok : s.seqOk = true) (hr : s.rdy = true) (hcap : s.msgCap = none)
    (hq : s.rxq = send n0 text ++ [byteSymbol Config.EOT]) :
    ∃ t, runSteps ((send n0 text).length + 2) s = .next t ∧ t.st = .done ∧ t.msg.bytes = s.msg.bytes ++ text ∧
      t.tx = s.tx ++ Config.NAK :: (List.replicate ((text.length + 4) / 5) Config.ACK ++ [Config.ACK]) := by
  have hready := step_of_rdy hrst hok hr
  obtain ⟨-, -, hst⟩ := (State.seqOk_iff s).mp hok
  have hc : (ready s).atControl = true := State.atControl_of_seqOk (step_seqOk hready) rfl (hst hr)
  obtain ⟨u, hu, hurst, huc, huq, hutx, humsg⟩ := runSteps_send (s := ready s) htext hrst hc hcap hq
  refine ⟨(u.popRx.txWrite Config.ACK).goto .done 0, ?_, rfl, by simp [humsg], by simp [hutx]⟩
  rw [runSteps_succ_of_step hready]
  exact (runSteps_add hu 1).trans ((runSteps_one u).trans (step_eot hurst huc huq))

/-- Settles O59: the blocks of `SEND` from control, and a whole session from reset. -/
theorem sentMessageIsRebuilt : Obligations.SentMessageIsRebuilt := by
  refine ⟨fun text n0 rest s htext hrst hr hst hi hcap hq => ?fromControl, fun text n0 htext => ?fromReset⟩
  case fromControl =>
    obtain ⟨t, ht, -, htc, htq, httx, htmsg⟩ :=
      runSteps_send htext hrst ((State.atControl_iff s).mpr ⟨hr, hst, hi⟩) hcap hq
    obtain ⟨htr, htst, hti⟩ := (State.atControl_iff t).mp htc
    exact ⟨t, ht, htmsg, httx, htst, hti, htr, htq⟩
  case fromReset =>
    obtain ⟨t, ht, hst, hmsg, htx⟩ := runSteps_session (n0 := n0)
      (s := { State.reset with rxq := send n0 text ++ [byteSymbol 0x04] }) htext rfl rfl rfl rfl rfl
    exact ⟨t, ht, hmsg, (State.outcome_normalTermination_iff t).mpr hst, htx⟩

end Sys2Proof.Machine
end
